-- ==== Sys2Proof/Word.lean ====
section
/-! DEFINITION. The word types of the PW7140 and the plainest arithmetic on them: 16-bit words made of two
byte lanes, 20-bit word addresses, odd parity of a lane (spec/00_scope.md, Terms and Conventions; R63, R69). -/

namespace Sys2Proof

/-- A word: 16 bits, a low byte (lane 0) and a high byte (lane 1) (spec/00_scope.md, "Word"). -/
abbrev Word := BitVec 16

/-- One byte of a word: a lane's data (spec/00_scope.md, "Lane"). -/
abbrev Byte := BitVec 8

/-- A host or array word address, 0x00000 to 0xFFFFF (spec/00_scope.md, Conventions). -/
abbrev Addr := BitVec 20

/-- The data of lane 0: the low byte. -/
def Word.lane0 (w : Word) : Byte := w.setWidth 8

/-- The data of lane 1: the high byte. -/
def Word.lane1 (w : Word) : Byte := w.extractLsb' 8 8

/-- A word from its lane 1 and its lane 0. -/
def Word.ofLanes (hi lo : Byte) : Word := hi ++ lo

/-- The parity bit that makes a lane odd: eight data bits and this bit hold an odd number of ones
(chapter 4, Parity: 0x00 carries 1, 0x01 carries 0, 0xFF carries 1). -/
def Byte.oddParity (b : Byte) : Bool :=
  !((b.getLsbD 0 ^^ b.getLsbD 1) ^^ (b.getLsbD 2 ^^ b.getLsbD 3)
    ^^ ((b.getLsbD 4 ^^ b.getLsbD 5) ^^ (b.getLsbD 6 ^^ b.getLsbD 7)))

end Sys2Proof
end

