-- ==== Sys2Proof/Config.lean ====
section
/-! DEFINITION. The constants that the manual fixes for every PW7140. The model needs no free value: what the
manual leaves to the outside (a word on AD, what the array made of an interrupted write, the order of events
at one instant) is an operand or the order of the commands (notes/assumptions/3.md, 5.md, 8.md). -/

namespace Sys2Proof.Config

/-- Entries of the staging store (R41). -/
def storeEntries : Nat := 512

/-- Group records that the commit queue holds at most (R91). -/
def queueSlots : Nat := 32

/-- The VALID marker of journal word 0 (R115). -/
def validMarker : Word := 0xC3A5#16

/-- The EMPTY marker of journal word 0 (R115). -/
def emptyMarker : Word := 0x0000#16

/-- What ID reads (R176). -/
def partId : Word := 0x7140#16

/-- The value at which a counter saturates (R182). -/
def counterMax : Word := 0xFFFF#16

/-- The value at which the starvation count is held (R136). -/
def starveCountMax : Nat := 15

end Sys2Proof.Config
end

