-- ==== Sys2Proof/Syntax.lean ====
section
/-! DEFINITION. The commands of the PW7140: `Instr` has one constructor per row of spec/opcode_table.json, with the
operands that the row's event brings from outside (the levels on the host bus, the word on AD, the level of
PWARN#, the register index and data of a management frame). The types of the operands stand before it. -/

namespace Sys2Proof

/-- A number from 0 to 3: a domain (R17), or one of the registers HSET0 to HSET3 (R13). -/
inductive Ix4
  | i0 | i1 | i2 | i3
deriving DecidableEq, Repr

/-- A domain number (spec/00_scope.md, "Domain"). -/
abbrev Dom := Ix4

/-- The four numbers in ascending order. -/
def Ix4.all : List Ix4 := [.i0, .i1, .i2, .i3]

/-- A set of lanes: which byte enables are asserted (spec/00_scope.md, "Lane mask"). -/
structure Lanes where
  lane0 : Bool
  lane1 : Bool
deriving DecidableEq, Repr

/-- Both lanes. -/
def Lanes.both : Lanes := ⟨true, true⟩

/-- The three straps as levels (R1): ASZ[1:0], JSZ[1:0] and HPAR. -/
structure Straps where
  asz  : BitVec 2
  jsz  : BitVec 2
  hpar : Bool
deriving DecidableEq, Repr

/-- The host bus at the moment HCS# and a strobe are seen asserted together (R62, R63): the strobes, and the
levels on HA, HBE#, HD and HDP. `hwe` and `hoe` say whether HWE# and HOE# are asserted. -/
structure HostBus where
  hwe : Bool
  hoe : Bool
  ha  : Addr
  hbe : Lanes
  hd  : Word
  hdp : BitVec 2
deriving DecidableEq, Repr

/-- An expiry that a tick can bring (R72, R137, R148). `array` carries what an interrupted array write left
(R137): nothing, or the word the array then holds. -/
inductive Expiry
  | hold
  | array (left : Option Word)
  | age (d : Dom)
deriving DecidableEq, Repr

/-- The eight counters (R182). -/
inductive CounterId
  | writesStaged | coalesced | groupsCommitted | groupsApplied
  | groupsBroken | writesDropped | stallEvents | forwardHits
deriving DecidableEq, Repr

/-- The registers of the index map (R185, chapter 12), each under its own name. -/
inductive Reg
  | id | straps | flags | enables | cause | laststat | viewx | ecmd
  | estat | free | flow | seq | dropcause | arrsrc | pwstat
  | rseq | rdom | rtag | rcnt
  | stalllvl | resumelvl | holdlim | arrto | starve | tickdiv | abortval | agechain
  | hact | defact | jaddrlo | jaddr | jdata | jstat
  | hset (k : Ix4)
  | counter (c : CounterId)
  | dctl (d : Dom) | ceil (d : Dom) | cclo (d : Dom) | cchi (d : Dom)
  | agerld (d : Dom) | agecnt (d : Dom) | dstat (d : Dom) | lasttag (d : Dom) | appliedtag (d : Dom)
  | winbase (i : Fin 16) | winlim (i : Fin 16)
deriving DecidableEq, Repr

/-- An event that comes while a management frame is being shifted, between the end of its byte 0 and the end of its byte 2
(R170, R174): each is the row of the same event. -/
inductive Event
  | hostArrival (bus : HostBus)
  | hostReturnIdle
  | hostStrobesEndEarly
  | holdExpiry
  | arrayComplete (ad : Option Word)
  | arrayTimeout (left : Option Word)
  | tick (pwarnLow : Bool) (early : List Expiry)
  | ageExpiry (d : Dom)
deriving DecidableEq, Repr

/-- The commands: one constructor per row of spec/opcode_table.json, in the table's order. Each docstring names
the row and its rule. The table gives no row a field, so the operands are the model's (notes/assumptions/2.md). A complete
frame carries in `inside` the events that come between its byte 0 and the end of its byte 2, none where it is not written
(notes/assumptions/14.md). -/
inductive Instr
  /-- HOST_ACCESS_ARRIVAL (R62): HCS# and a strobe (or, malformed, both) are seen asserted. Under an access whose strobes
  ended early it is the signals' new assertion (R65). -/
  | hostAccessArrival (bus : HostBus)
  /-- HOST_PORT_RETURN_IDLE (R62): HCS# or both strobes are seen deasserted. -/
  | hostPortReturnIdle
  /-- HOLD_LIMIT_EXPIRY (R73): the expiry that a tick has made due is taken. -/
  | holdLimitExpiry
  /-- ARRAY_ACCESS_COMPLETE (R133): ARDY is seen. `ad = none`: AD carries the word the array holds;
  `some w`: AD carries `w` (R133, "with whatever AD holds"). -/
  | arrayAccessComplete (ad : Option Word)
  /-- ARRAY_TIMEOUT (R137): the timeout that a tick has made due is taken. `left`: what an interrupted write left. -/
  | arrayTimeout (left : Option Word)
  /-- TICK (R144): one tick, with the sampled level of PWARN# (true: asserted) and the expiries of this very tick
  that are taken before the sample's effect, in order (R73, R155: either may be taken first). -/
  | tick (pwarnLow : Bool) (early : List Expiry)
  /-- AGE_EXPIRY (R151): the expiry of domain d that a tick has made due is taken. -/
  | ageExpiry (d : Dom)
  /-- RESET (R1): power-on or RESET#, with the straps sampled, what an interrupted array write left (R143), and whether
  the supervisor holds MSS# asserted as the part leaves reset (R184). -/
  | reset (straps : Straps) (left : Option Word) (mssHeld : Bool := false)
  /-- INCOMPLETE_FRAME (R170): MSS# is deasserted after fewer than 24 clocks; of a frame of three bytes on MSI the port has
  sampled that many bits. -/
  | incompleteFrame (frame : BitVec 24 := 0#24) (clocks : Fin 24 := 0)
  /-- VIEW_READ (R175): a complete read frame of the register index. -/
  | viewRead (index : BitVec 7) (inside : List Event := [])
  /-- REGISTER_WRITE (R186): a complete write frame of the register index. -/
  | registerWrite (index : BitVec 7) (data : Word) (inside : List Event := [])
  /-- HOLD_ON (R107). -/
  | holdOn (inside : List Event := [])
  /-- HOLD_OFF (R107). -/
  | holdOff (inside : List Event := [])
  /-- RETRY (R108). -/
  | retry (inside : List Event := [])
  /-- ABANDON_HEAD (R109). -/
  | abandonHead (inside : List Event := [])
  /-- STAGE_CLEAR (R110, R111). -/
  | stageClear (inside : List Event := [])
  /-- RECOVER_RETRY (R128). -/
  | recoverRetry (inside : List Event := [])
  /-- JOURNAL_DISCARD (R129). -/
  | journalDiscard (inside : List Event := [])
  /-- WINBASE_WRITE (R12). -/
  | winbaseWrite (i : Fin 16) (data : Word) (inside : List Event := [])
  /-- WINLIM_WRITE (R12). -/
  | winlimWrite (i : Fin 16) (data : Word) (inside : List Event := [])
  /-- HSET_WRITE (R13). -/
  | hsetWrite (k : Ix4) (data : Word) (inside : List Event := [])
  /-- HACT_WRITE (R13). -/
  | hactWrite (data : Word) (inside : List Event := [])
  /-- DEFACT_WRITE (R13). -/
  | defactWrite (data : Word) (inside : List Event := [])
  /-- CCLO_WRITE (R14). -/
  | ccloWrite (d : Dom) (data : Word) (inside : List Event := [])
  /-- CCHI_WRITE (R14). -/
  | cchiWrite (d : Dom) (data : Word) (inside : List Event := [])
  /-- DOMAIN_ENABLE (R38): a DCTL[d] write whose enable bit is 1; the other bits are those of `data`. -/
  | domainEnable (d : Dom) (data : Word) (inside : List Event := [])
  /-- DOMAIN_DISABLE (R39): a DCTL[d] write whose enable bit is 0; the other bits are those of `data`. -/
  | domainDisable (d : Dom) (data : Word) (inside : List Event := [])
  /-- DCTL_OPTIONS_WRITE (R18): a DCTL[d] write that repeats the enable option; the other bits are those of `data`. -/
  | dctlOptionsWrite (d : Dom) (data : Word) (inside : List Event := [])
  /-- CEIL_WRITE (R19). -/
  | ceilWrite (d : Dom) (data : Word) (inside : List Event := [])
  /-- ABORTVAL_WRITE (R20). -/
  | abortvalWrite (data : Word) (inside : List Event := [])
  /-- STALLLVL_WRITE (R49). -/
  | stalllvlWrite (data : Word) (inside : List Event := [])
  /-- RESUMELVL_WRITE (R49). -/
  | resumelvlWrite (data : Word) (inside : List Event := [])
  /-- HOLDLIM_WRITE (R72). -/
  | holdlimWrite (data : Word) (inside : List Event := [])
  /-- ARRTO_WRITE (R137). -/
  | arrtoWrite (data : Word) (inside : List Event := [])
  /-- STARVE_WRITE (R136). -/
  | starveWrite (data : Word) (inside : List Event := [])
  /-- TICKDIV_WRITE (R144). -/
  | tickdivWrite (data : Word) (inside : List Event := [])
  /-- AGERLD_WRITE (R145). -/
  | agerldWrite (d : Dom) (data : Word) (inside : List Event := [])
  /-- AGECHAIN_WRITE (R149). -/
  | agechainWrite (data : Word) (inside : List Event := [])
  /-- JADDRLO_WRITE (R141). -/
  | jaddrloWrite (data : Word) (inside : List Event := [])
  /-- JADDR_WRITE (R141). -/
  | jaddrWrite (data : Word) (inside : List Event := [])
  /-- FLAGS_WRITE (R178). -/
  | flagsWrite (data : Word) (inside : List Event := [])
  /-- ENABLES_WRITE (R179). -/
  | enablesWrite (data : Word) (inside : List Event := [])
  /-- COUNTER_CLEAR (R183). -/
  | counterClear (c : CounterId) (data : Word) (inside : List Event := [])
  /-- HOST_STROBES_END_EARLY (R65). -/
  | hostStrobesEndEarly
  /-- UNNAMED_ECMD_CODE (R106): a complete write frame to ECMD with a code that names no command. -/
  | unnamedEcmdCode (code : Word) (inside : List Event := [])
deriving DecidableEq, Repr

end Sys2Proof
end

