-- ==== Sys2Proof/Decode.lean ====
section
/-! DEFINITION. Decoding: the register index map of the management port in both directions (R185, chapter 12),
the command a three-byte management frame spells (R169), and `decodeTableWord`. No row of spec/opcode_table.json
gives bits, so a table word spells no command (notes/assumptions/1.md). -/

namespace Sys2Proof

/-- The number 0 to 3. -/
def Ix4.toNat : Ix4 → Nat
  | .i0 => 0 | .i1 => 1 | .i2 => 2 | .i3 => 3

/-- The number 0 to 3 that a two-bit field carries. -/
def Ix4.ofBits (b : BitVec 2) : Ix4 :=
  if b = 0#2 then .i0 else if b = 1#2 then .i1 else if b = 2#2 then .i2 else .i3

/-- The two-bit field of a number 0 to 3. -/
def Ix4.toBits (d : Ix4) : BitVec 2 := BitVec.ofNat 2 d.toNat

/-- The counter's place among 0x28 to 0x2F (chapter 12, register index map). -/
def CounterId.toNat : CounterId → Nat
  | .writesStaged => 0 | .coalesced => 1 | .groupsCommitted => 2 | .groupsApplied => 3
  | .groupsBroken => 4 | .writesDropped => 5 | .stallEvents => 6 | .forwardHits => 7

/-- The index of a register (chapter 12, register index map). -/
def Reg.index : Reg → Nat
  | .id => 0x00 | .straps => 0x01 | .flags => 0x02 | .enables => 0x03
  | .cause => 0x04 | .laststat => 0x05 | .viewx => 0x06 | .ecmd => 0x07
  | .estat => 0x08 | .free => 0x09 | .flow => 0x0A | .seq => 0x0B
  | .dropcause => 0x0C | .arrsrc => 0x0D | .pwstat => 0x0E
  | .rseq => 0x10 | .rdom => 0x11 | .rtag => 0x12 | .rcnt => 0x13
  | .stalllvl => 0x14 | .resumelvl => 0x15 | .holdlim => 0x16 | .arrto => 0x17
  | .starve => 0x18 | .tickdiv => 0x19 | .abortval => 0x1A | .agechain => 0x1B
  | .hact => 0x1C | .defact => 0x1D | .jaddrlo => 0x1E | .jaddr => 0x1F
  | .jdata => 0x20 | .jstat => 0x21
  | .hset k => 0x24 + k.toNat
  | .counter c => 0x28 + c.toNat
  | .dctl d => 0x30 + d.toNat | .ceil d => 0x34 + d.toNat
  | .cclo d => 0x38 + d.toNat | .cchi d => 0x3C + d.toNat
  | .agerld d => 0x40 + d.toNat | .agecnt d => 0x44 + d.toNat
  | .dstat d => 0x48 + d.toNat | .lasttag d => 0x4C + d.toNat
  | .appliedtag d => 0x50 + d.toNat
  | .winbase i => 0x60 + 2 * i.val | .winlim i => 0x61 + 2 * i.val

/-- The register at an index, in the same order as the map of chapter 12; `none` at the unused indices 0x0F,
0x22, 0x23 and 0x54 to 0x5F (R186). -/
def regAt (n : BitVec 7) : Option Reg :=
  match n.toNat with
  | 0x00 => some .id | 0x01 => some .straps | 0x02 => some .flags | 0x03 => some .enables
  | 0x04 => some .cause | 0x05 => some .laststat | 0x06 => some .viewx | 0x07 => some .ecmd
  | 0x08 => some .estat | 0x09 => some .free | 0x0A => some .flow | 0x0B => some .seq
  | 0x0C => some .dropcause | 0x0D => some .arrsrc | 0x0E => some .pwstat | 0x0F => none
  | 0x10 => some .rseq | 0x11 => some .rdom | 0x12 => some .rtag | 0x13 => some .rcnt
  | 0x14 => some .stalllvl | 0x15 => some .resumelvl | 0x16 => some .holdlim | 0x17 => some .arrto
  | 0x18 => some .starve | 0x19 => some .tickdiv | 0x1A => some .abortval | 0x1B => some .agechain
  | 0x1C => some .hact | 0x1D => some .defact | 0x1E => some .jaddrlo | 0x1F => some .jaddr
  | 0x20 => some .jdata | 0x21 => some .jstat | 0x22 => none | 0x23 => none
  | 0x24 => some (.hset .i0) | 0x25 => some (.hset .i1) | 0x26 => some (.hset .i2) | 0x27 => some (.hset .i3)
  | 0x28 => some (.counter .writesStaged) | 0x29 => some (.counter .coalesced)
  | 0x2A => some (.counter .groupsCommitted) | 0x2B => some (.counter .groupsApplied)
  | 0x2C => some (.counter .groupsBroken) | 0x2D => some (.counter .writesDropped)
  | 0x2E => some (.counter .stallEvents) | 0x2F => some (.counter .forwardHits)
  | 0x30 => some (.dctl .i0) | 0x31 => some (.dctl .i1) | 0x32 => some (.dctl .i2) | 0x33 => some (.dctl .i3)
  | 0x34 => some (.ceil .i0) | 0x35 => some (.ceil .i1) | 0x36 => some (.ceil .i2) | 0x37 => some (.ceil .i3)
  | 0x38 => some (.cclo .i0) | 0x39 => some (.cclo .i1) | 0x3A => some (.cclo .i2) | 0x3B => some (.cclo .i3)
  | 0x3C => some (.cchi .i0) | 0x3D => some (.cchi .i1) | 0x3E => some (.cchi .i2) | 0x3F => some (.cchi .i3)
  | 0x40 => some (.agerld .i0) | 0x41 => some (.agerld .i1)
  | 0x42 => some (.agerld .i2) | 0x43 => some (.agerld .i3)
  | 0x44 => some (.agecnt .i0) | 0x45 => some (.agecnt .i1)
  | 0x46 => some (.agecnt .i2) | 0x47 => some (.agecnt .i3)
  | 0x48 => some (.dstat .i0) | 0x49 => some (.dstat .i1)
  | 0x4A => some (.dstat .i2) | 0x4B => some (.dstat .i3)
  | 0x4C => some (.lasttag .i0) | 0x4D => some (.lasttag .i1)
  | 0x4E => some (.lasttag .i2) | 0x4F => some (.lasttag .i3)
  | 0x50 => some (.appliedtag .i0) | 0x51 => some (.appliedtag .i1)
  | 0x52 => some (.appliedtag .i2) | 0x53 => some (.appliedtag .i3)
  | m =>
    if m < 0x60 then none
    else if m % 2 = 0 then some (.winbase (Fin.ofNat 16 ((m - 0x60) / 2)))
    else some (.winlim (Fin.ofNat 16 ((m - 0x60) / 2)))

/-- Whether a register is of access type R (chapter 12, register index map; R176). -/
def Reg.readOnly : Reg → Bool
  | .id | .straps | .cause | .laststat | .viewx | .estat | .free | .flow | .seq | .dropcause | .arrsrc
  | .pwstat | .rseq | .rdom | .rtag | .rcnt | .jdata | .jstat
  | .agecnt _ | .dstat _ | .lasttag _ | .appliedtag _ => true
  | _ => false

/-- Whether an ECMD code names a command: 0x0001 to 0x0007 (chapter 12, ECMD codes). -/
def ecmdNamed (code : Word) : Bool := 1 ≤ code.toNat && code.toNat ≤ 7

/-- The command that the three bytes of a complete management frame spell (R169, chapter 12 "Management frame"):
byte 0 bit 7 is the direction, 1 for read, and bits 6..0 the register index; bytes 1 and 2 are data bits 15..8
and 7..0. `inside`: the events that come while bytes 1 and 2 are shifted. -/
def commandOfFrame (byte0 byte1 byte2 : Byte) (inside : List Event) : Instr :=
  if byte0.getLsbD 7 then .viewRead (byte0.setWidth 7) inside
  else .registerWrite (byte0.setWidth 7) (Word.ofLanes byte1 byte2) inside

/-- The command that a word of the opcode table spells. The table gives none of its 45 rows a fixed bit or a
field, so no word spells a command. -/
def decodeTableWord (_nbits _w : Nat) : Option Instr := none

end Sys2Proof
end

