-- ==== Sys2Proof/Machine/State.lean ====
section
/-! DEFINITION. The state of the PW7140 as plain data: every register, list, timer and mode the manual gives its ten
blocks, the contents of the persistent array it drives, and the queue of waiting commands. `State.cold` is the part
as a reset leaves it before the engine's first request, `State.reset` the machine of the host's interface. -/

namespace Sys2Proof.Machine

/-- Four values, one for each number 0 to 3. -/
structure Four (α : Type) where
  at0 : α
  at1 : α
  at2 : α
  at3 : α
deriving DecidableEq, Repr

/-- The value of number `d`. -/
def Four.get {α : Type} (v : Four α) : Ix4 → α
  | .i0 => v.at0 | .i1 => v.at1 | .i2 => v.at2 | .i3 => v.at3

/-- The four values with that of number `d` replaced. -/
def Four.set {α : Type} (v : Four α) (d : Ix4) (x : α) : Four α :=
  match d with
  | .i0 => { v with at0 := x } | .i1 => { v with at1 := x }
  | .i2 => { v with at2 := x } | .i3 => { v with at3 := x }

/-- The four values that `f` gives. -/
def Four.ofFn {α : Type} (f : Ix4 → α) : Four α := ⟨f .i0, f .i1, f .i2, f .i3⟩

/-! ### Classifier (chapter 1) -/

/-- The kind of a window (R6). -/
inductive WindowKind
  | pass | stage | deny
deriving DecidableEq, Repr

/-- One entry of the Window Table (R6). -/
structure Window where
  enable : Bool
  base   : BitVec 12
  limit  : BitVec 12
  kind   : WindowKind
  domain : Dom
deriving DecidableEq, Repr

/-- The kind of the hash action (R7, R13). -/
inductive HashKind
  | stage | deny
deriving DecidableEq, Repr

/-- The default action (R8). -/
inductive DefaultAction
  | pass | deny
deriving DecidableEq, Repr

/-- The Classifier's tables (R6, R7, R8, R13). HSETk holds hash positions 16k to 16k + 15. -/
structure Classifier where
  windows    : Vector Window 16
  hset       : Four Word
  hashKind   : HashKind
  hashDomain : Dom
  defact     : DefaultAction
deriving DecidableEq, Repr

/-- The class of an access (R4). -/
inductive Class
  | commitCell (d : Dom) | outside | reserved | stage (d : Dom) | pass | deny
deriving DecidableEq, Repr

/-! ### Domains (chapters 2 and 9) and the staging store (chapter 3) -/

/-- One entry of the staging store that holds a word (R41). Its owning group is the list it stands in, its
position its place there. -/
structure Entry where
  addr  : Addr
  lanes : Lanes
  data  : Word
deriving DecidableEq, Repr

/-- The state of a domain (R17); `opened` is the manual's OPEN. -/
inductive DomState
  | off | empty | opened | broken
deriving DecidableEq, Repr

/-- The cause of a domain's most recent break (R33). -/
inductive BreakCause
  | none | ceiling | storeFull | hold | queueFull | parity | format | age | power | clear
deriving DecidableEq, Repr

/-- Age mode (R18). -/
inductive AgeMode
  | total | idle
deriving DecidableEq, Repr

/-- Age action (R18, R151). -/
inductive AgeAction
  | notify | commit | abandon
deriving DecidableEq, Repr

/-- One domain (chapter 2, "Domain state"; R145). The enable option is on in every state but `off` (R15). `ageDue`
says that a tick has brought the age counter to 0 and the expiry has not been taken yet (R148, R155). -/
structure Domain where
  state       : DomState
  closing     : Bool
  autoPending : Bool
  group       : List Entry
  sync        : Bool
  ageMode     : AgeMode
  ageAction   : AgeAction
  ceil        : Word
  cell        : Addr
  cellLatch   : Word
  lastTag     : Word
  appliedTag  : Word
  breakCause  : BreakCause
  age         : Word
  ageDue      : Bool
  agerld      : Word
deriving DecidableEq, Repr

/-- The flow state (R48). -/
inductive Flow
  | flowing | throttled
deriving DecidableEq, Repr

/-- The staging store's own state (R48, R49). Its entries stand in the groups; the free ones are a set with no
meaning (R42), of which only the number is kept, computed by `freeCount`. -/
structure Store where
  flow      : Flow
  stalllvl  : Word
  resumelvl : Word
deriving DecidableEq, Repr

/-! ### Commit queue and apply engine (chapters 6 and 7) -/

/-- A group record of the commit queue with its group's entries (R91). -/
structure GroupRecord where
  seq     : Word
  domain  : Dom
  tag     : Word
  cell    : Addr
  sync    : Bool
  entries : List Entry
deriving DecidableEq, Repr

/-- The fields of one journal record (R116). -/
structure JournalRecord where
  addr  : Addr
  lanes : Lanes
  data  : Word
  tag   : Bool
deriving DecidableEq, Repr

/-- The phases of an apply (R95). -/
inductive Phase
  | copying | marking | homing | clearing
deriving DecidableEq, Repr

/-- Why the engine is BLOCKED (R95, R125, R126). -/
inductive BlockCause
  | array | check
deriving DecidableEq, Repr

/-- How far recovery has gone, with the words it has read (R119 to R124). `header` and `records` hold the words
read so far; `replay` the header words and the records still to be written home, the one being written first. -/
inductive Recovery
  | marker
  | header (read : List Word)
  | records (header : List Word) (read : List Word)
  | replay (header : List Word) (rest : List JournalRecord)
  | finish (header : List Word)
deriving DecidableEq, Repr

/-- The state of the apply engine (R95). `copying i w` writes word w of record i; `marking k` header word k;
`homing i` record i; `faulted p i` keeps the phase and the record index of the timed-out access; `blocked` says
why, and whether a discard write is outstanding (R129). -/
inductive EngineState
  | recovering (at_ : Recovery)
  | blocked (cause : BlockCause) (discarding : Bool)
  | idle
  | copying (record : Nat) (word : Nat)
  | marking (word : Nat)
  | homing (record : Nat)
  | clearing
  | faulted (phase : Phase) (index : Nat)
deriving DecidableEq, Repr

/-- The engine with its HOLD, SEQ and the recovery registers (R93, R95, R124). -/
structure Engine where
  state : EngineState
  hold  : Bool
  seq   : Word
  rseq  : Word
  rdom  : Word
  rtag  : Word
  rcnt  : Word
deriving DecidableEq, Repr

/-! ### Array port (chapter 8) -/

/-- The three requesters (chapter 8): the Host Port, the Apply Engine, the management diagnostic read. -/
inductive Requester
  | host | engine | mgmt
deriving DecidableEq, Repr

/-- Read or write (R133). -/
inductive ArrayKind
  | read | write
deriving DecidableEq, Repr

/-- What a requester asks for (R133, R134). -/
structure Request where
  kind  : ArrayKind
  addr  : Addr
  data  : Word
  lanes : Lanes
deriving DecidableEq, Repr

/-- The access in progress with its timeout count (R133, R137). `due`: a tick has brought the count to ARRTO and
the timeout has not been taken yet. -/
structure ArrayAccess where
  requester : Requester
  request   : Request
  count     : Nat
  due       : Bool
deriving DecidableEq, Repr

/-- ARRSRC (R139). -/
inductive ArrSrc
  | none | host | engine
deriving DecidableEq, Repr

/-- The array port. It is BUSY exactly when an access is in progress. -/
structure Port where
  access      : Option ArrayAccess
  hostReq     : Option Request
  engineReq   : Option Request
  mgmtReq     : Option Request
  starveCount : Nat
  arrto       : Word
  starve      : Word
  arrsrc      : ArrSrc
deriving DecidableEq, Repr

/-- JSTAT (R142). -/
inductive DiagStatus
  | idle | pending | done | timeout
deriving DecidableEq, Repr

/-- The diagnostic read (R141, R142): the address latch JADDRLO, the address of the last accepted request, JDATA
and JSTAT. -/
structure Diag where
  latch  : Word
  addr   : Addr
  data   : Word
  status : DiagStatus
deriving DecidableEq, Repr

/-! ### Host port (chapter 4) -/

/-- A captured access (R63). With HPAR = 0 the parity bits are not captured. -/
inductive Access
  | read (addr : Addr)
  | write (addr : Addr) (lanes : Lanes) (data : Word) (hdp : Option (BitVec 2))
  | malformed
deriving DecidableEq, Repr

/-- Why the access in progress has not completed (R71). `deciding` stands only inside a step, between an
arrival (or a release from recovery) and the decision of the access's class. -/
inductive Hold
  | deciding
  | storeSpace (d : Dom)
  | queueSlot (d : Dom) (tag : Word)
  | sync (d : Dom)
  | plainRead
  | mergeRead (d : Dom)
  | passWrite
  | recovery
deriving DecidableEq, Repr

/-- An access in progress (R62, R65, R72): what was captured, why it is held, its hold timer, whether a tick has
brought the timer to HOLDLIM and the expiry has not been taken yet, and whether its strobes ended early. -/
structure Progress where
  access : Access
  hold   : Hold
  count  : Nat
  due    : Bool
  ended  : Bool
deriving DecidableEq, Repr

/-- The state of the Host Port (chapter 4, "The access in progress"): `driving` holds the read word. -/
inductive HostPort
  | idle
  | inProgress (p : Progress)
  | driving (word : Word)
  | ending
deriving DecidableEq, Repr

/-- Drop causes (R70). -/
inductive DropCause
  | none | deny | unmapped | domainOff | broken | power | blocked | format | parity
deriving DecidableEq, Repr

/-- The Host Port with HOLDLIM and DROPCAUSE (R70, R72). `again`: the levels on the bus where HCS# and a strobe are
asserted again under an access whose strobes ended early (R65). -/
structure HostSide where
  port      : HostPort
  again     : Option HostBus
  holdlim   : Word
  dropcause : DropCause
deriving DecidableEq, Repr

/-! ### Ticks, power, management port (chapters 9, 10, 11) -/

/-- The tick generator and the chain settings (R144, R149). -/
structure Ticks where
  tickdiv  : Word
  divCount : Nat
  chain01  : Bool
  chain23  : Bool
deriving DecidableEq, Repr

/-- The Power Warning Filter (chapter 10): `low` is POWER_LOW; a sample is true when it is low. -/
structure Power where
  low      : Bool
  last     : Bool
  previous : Bool
deriving DecidableEq, Repr

/-- The thirteen flags (R177). -/
inductive FlagId
  | applied | broken | age | hold | dropped | parity | array | power | powerok
  | recovered | recfail | fault | throttle
deriving DecidableEq, Repr

/-- The eight counters (R182). -/
structure Counters where
  writesStaged    : Word
  coalesced       : Word
  groupsCommitted : Word
  groupsApplied   : Word
  groupsBroken    : Word
  writesDropped   : Word
  stallEvents     : Word
  forwardHits     : Word
deriving DecidableEq, Repr

/-- Frame status (R171). -/
inductive Status
  | ok | busy | range | conflict | state | readonly | noreg
deriving DecidableEq, Repr

/-- Where VIEWX's value came from (R175). -/
inductive ViewSource
  | none | engine | domain (d : Dom)
deriving DecidableEq, Repr

/-- VIEWX (R175). -/
structure Viewx where
  source : ViewSource
  value  : BitVec 10
deriving DecidableEq, Repr

/-- What MSO carried in the most recent frame, complete or not (R169, R173, R174): the status byte, the snapshot (0 where
the frame was cut before the end of byte 0), and how many clocks of MSCK the frame had: 24 in a complete one. -/
structure Mso where
  status : Byte
  data   : Word
  clocks : Nat
deriving DecidableEq, Repr

/-- The management port (chapter 11). `mssHeld`: MSS# has stood asserted since a reset, and no frame is recognised until it
is seen deasserted (R184). A frame in progress stands inside a command alone. -/
structure Mgmt where
  mssHeld    : Bool
  flags      : BitVec 13
  enables    : BitVec 13
  counters   : Counters
  lastStatus : Status
  laststat   : Status
  viewx      : Viewx
  mso        : Mso
deriving DecidableEq, Repr

/-! ### The machine -/

/-- The state of the PW7140, one field a block (spec/00_scope.md, "Block overview"), then the contents of the
array and the commands that wait. -/
structure State where
  /-- The straps sampled at the last reset (R1). -/
  straps   : Straps
  /-- The Classifier (R6 to R8, R13). -/
  cl       : Classifier
  /-- The Domain Controllers, with their open groups and age counters (chapter 2, R145). -/
  domains  : Four Domain
  /-- ABORTVAL (R20). -/
  abortval : Word
  /-- The Staging Store (R48). -/
  store    : Store
  /-- The Commit Queue, the head first (R91). -/
  queue    : List GroupRecord
  /-- The Apply Engine (R95). -/
  engine   : Engine
  /-- The Array Port (chapter 8). -/
  port     : Port
  /-- The management diagnostic read (R141, R142). -/
  diag     : Diag
  /-- The Host Port (chapter 4). -/
  host     : HostSide
  /-- The Tick Generator and the chain settings (chapter 9). -/
  ticks    : Ticks
  /-- The Power Warning Filter (chapter 10). -/
  power    : Power
  /-- The Management Port (chapter 11). -/
  mgmt     : Mgmt
  /-- The persistent array's contents: lane l of word a is the cell at 2a + l (spec/00_scope.md, "System
  placement"). Canonical: addresses rise, no cell holds what an unlisted one reads as. -/
  array    : List Host.Cell
  /-- The commands that wait, first in, first out (the model's own field). -/
  pending  : List Instr
deriving DecidableEq, Repr

/-- The block stops on nothing: the manual gives every command an effect in every state, so no fault is raised. -/
inductive Fault
deriving DecidableEq, Repr

/-- Reasons a command is refused. -/
inductive Refusal
  /-- Raised only by an arm of `exec` for a row that has no meaning yet; safe (the machine stops). -/
  | notModelled (mnemonic : String)
deriving DecidableEq, Repr

/-- A disabled window with every field at its reset value (R16). -/
def Window.cold : Window := ⟨false, 0#12, 0#12, .pass, .i0⟩

/-- The Classifier after reset (R16). -/
def Classifier.cold : Classifier where
  windows := Vector.replicate 16 Window.cold
  hset := Four.ofFn fun _ => 0#16
  hashKind := .deny
  hashDomain := .i0
  defact := .pass

/-- A domain after reset (R40, R145, R157). -/
def Domain.cold : Domain where
  state := .off
  closing := false
  autoPending := false
  group := []
  sync := false
  ageMode := .total
  ageAction := .notify
  ceil := 64#16
  cell := 0#20
  cellLatch := 0#16
  lastTag := 0#16
  appliedTag := 0#16
  breakCause := .none
  age := 0#16
  ageDue := false
  agerld := 255#16

/-- The engine after reset (R113, R119): RECOVERING with the journal on, IDLE with the journal off. -/
def Engine.cold (st : Straps) : Engine where
  state := if st.jsz = 0#2 then .idle else .recovering .marker
  hold := false
  seq := 0#16
  rseq := 0#16
  rdom := 0#16
  rtag := 0#16
  rcnt := 0#16

/-- The array port after reset (R143). -/
def Port.cold : Port where
  access := none
  hostReq := none
  engineReq := none
  mgmtReq := none
  starveCount := 0
  arrto := 50#16
  starve := 4#16
  arrsrc := .none

/-- The eight counters after reset (R184). -/
def Counters.cold : Counters := ⟨0#16, 0#16, 0#16, 0#16, 0#16, 0#16, 0#16, 0#16⟩

/-- The management port after reset (R184). MSO has carried no frame yet: the model writes 0
(notes/assumptions/11.md). -/
def Mgmt.cold (mssHeld : Bool) : Mgmt where
  mssHeld := mssHeld
  flags := 0#13
  enables := 0#13
  counters := Counters.cold
  lastStatus := .ok
  laststat := .ok
  viewx := ⟨.none, 0#10⟩
  mso := ⟨0#8, 0#16, 0⟩

/-- Every block at its reset value (R16, R40, R61, R76, R113, R143, R157, R168, R184), with the straps sampled, the
array as it stands, the commands that wait and the level of MSS#; the engine's first request (R119) has not been made
yet. -/
def State.cold (st : Straps) (mssHeld : Bool) (array : List Host.Cell) (pending : List Instr) : State where
  straps := st
  cl := Classifier.cold
  domains := Four.ofFn fun _ => Domain.cold
  abortval := 0xFFFF#16
  store := ⟨.flowing, 16#16, 48#16⟩
  queue := []
  engine := Engine.cold st
  port := Port.cold
  diag := ⟨0#16, 0#20, 0#16, .idle⟩
  host := ⟨.ending, none, 200#16, .none⟩
  ticks := ⟨999#16, 0, false, false⟩
  power := ⟨false, false, false⟩
  mgmt := Mgmt.cold mssHeld
  array := array
  pending := pending

/-- The machine right after reset on a board that ties every strap low and holds MSS# deasserted (notes/assumptions/6.md):
131,072 words, journal off, host parity off, so the engine is IDLE and makes no request (R132). RESET gives every other
board. -/
def State.reset : State := State.cold ⟨0#2, 0#2, false⟩ false [] []

end Sys2Proof.Machine
end

