-- ==== Sys2Proof/Machine/Flags.lean ====
section
/-! DEFINITION. The flags, their enables, IRQ# and CAUSE (R177 to R181), and the saturating counters (R182, R183). -/

namespace Sys2Proof.Machine

/-- The flag's number: its bit in FLAGS and ENABLES and the value CAUSE returns (chapter 12, FLAGS and ENABLES). -/
def FlagId.num : FlagId → Nat
  | .applied => 0 | .broken => 1 | .age => 2 | .hold => 3 | .dropped => 4 | .parity => 5 | .array => 6
  | .power => 7 | .powerok => 8 | .recovered => 9 | .recfail => 10 | .fault => 11 | .throttle => 12

/-- The flags from the highest priority to the lowest (R181). -/
def FlagId.byPriority : List FlagId :=
  [.recfail, .fault, .power, .array, .broken, .hold, .parity, .dropped, .age, .throttle, .powerok,
   .recovered, .applied]

/-- The word with the flag's bit alone set. -/
def FlagId.bit (f : FlagId) : BitVec 13 := BitVec.twoPow 13 f.num

/-- Whether the flag is set. -/
def State.flag (s : State) (f : FlagId) : Bool := s.mgmt.flags.getLsbD f.num

/-- Set a flag, whatever its enable and whether or not it is set (R177). -/
def setFlag (f : FlagId) (s : State) : State :=
  { s with mgmt := { s.mgmt with flags := s.mgmt.flags ||| f.bit } }

/-- The flags after a write to FLAGS: a 1 clears its flag, bits that name no flag are ignored (R178). -/
def clearedFlags (flags : BitVec 13) (data : Word) : BitVec 13 := flags &&& ~~~(data.setWidth 13)

/-- IRQ# is asserted exactly while a flag is both set and enabled (R180). -/
def State.irqAsserted (s : State) : Bool := (s.mgmt.flags &&& s.mgmt.enables) != 0#13

/-- CAUSE: the number of the highest-priority flag that is set and enabled, or 0x00FF (R181). -/
def State.cause (s : State) : Word :=
  match FlagId.byPriority.find? (fun f => (s.mgmt.flags &&& s.mgmt.enables).getLsbD f.num) with
  | some f => BitVec.ofNat 16 f.num
  | none => 0x00FF#16

/-- One counter's value. -/
def Counters.get (c : Counters) : CounterId → Word
  | .writesStaged => c.writesStaged | .coalesced => c.coalesced
  | .groupsCommitted => c.groupsCommitted | .groupsApplied => c.groupsApplied
  | .groupsBroken => c.groupsBroken | .writesDropped => c.writesDropped
  | .stallEvents => c.stallEvents | .forwardHits => c.forwardHits

/-- The counters with one of them replaced. -/
def Counters.set (c : Counters) (k : CounterId) (v : Word) : Counters :=
  match k with
  | .writesStaged => { c with writesStaged := v } | .coalesced => { c with coalesced := v }
  | .groupsCommitted => { c with groupsCommitted := v } | .groupsApplied => { c with groupsApplied := v }
  | .groupsBroken => { c with groupsBroken := v } | .writesDropped => { c with writesDropped := v }
  | .stallEvents => { c with stallEvents := v } | .forwardHits => { c with forwardHits := v }

/-- A count after its event: one more, or 65535 where it has saturated (R182). -/
def saturatingSucc (w : Word) : Word := if w = Config.counterMax then w else w + 1#16

/-- A counter rises by one at its event (R182). -/
def bump (c : CounterId) (s : State) : State :=
  { s with mgmt := { s.mgmt with
      counters := s.mgmt.counters.set c (saturatingSucc (s.mgmt.counters.get c)) } }

end Sys2Proof.Machine
end

