-- ==== Sys2Proof/Machine/Ops.lean ====
section
/-! DEFINITION. The shared operations: the array's contents lane by lane, the geometry that the straps fix (R1, R2),
the views computed from the state (free count, quiescence, drain pending), record updates by block, and the drop and
completion of the host access in progress (R64, R65, R70). -/

namespace Sys2Proof

/-! ### Lane sets -/

/-- Whether a lane set is empty (R66). -/
def Lanes.isEmpty (l : Lanes) : Bool := !l.lane0 && !l.lane1

/-- Whether a lane set holds both lanes. -/
def Lanes.isBoth (l : Lanes) : Bool := l.lane0 && l.lane1

/-- The union of two lane sets (R46). -/
def Lanes.union (a b : Lanes) : Lanes := ⟨a.lane0 || b.lane0, a.lane1 || b.lane1⟩

end Sys2Proof

namespace Sys2Proof.Machine

/-! ### The array's contents -/

/-- What a lane of the array that no write has been made to reads as. The manual gives a persistent array no
contents at power-on; DESIGN CHOICE 0x00 (notes/assumptions/4.md). -/
def blankLane : Byte := 0#8

/-- One lane of the array, by its cell number. -/
def Memory.get : List Host.Cell → Nat → Byte
  | [], _ => blankLane
  | (k, b) :: rest, n => if k = n then b else Memory.get rest n

/-- Put a cell in front, unless it holds what an unlisted one reads as. -/
def Memory.cons (n : Nat) (b : Byte) (m : List Host.Cell) : List Host.Cell :=
  if b = blankLane then m else (n, b) :: m

/-- Write one lane, keeping the canonical form. -/
def Memory.set : List Host.Cell → Nat → Byte → List Host.Cell
  | [], n, b => Memory.cons n b []
  | (k, c) :: rest, n, b =>
    if n < k then Memory.cons n b ((k, c) :: rest)
    else if n = k then Memory.cons n b rest
    else (k, c) :: Memory.set rest n b

/-- The canonical form from cell `lo` on: cells rise, none holds what an unlisted one reads as. -/
def Memory.wfFrom : Nat → List Host.Cell → Bool
  | _, [] => true
  | lo, (k, b) :: rest => decide (lo ≤ k) && b != blankLane && Memory.wfFrom (k + 1) rest

/-- The canonical form of the array's contents. -/
def Memory.wf (m : List Host.Cell) : Bool := Memory.wfFrom 0 m

/-- The cell number of a lane of a word: lane 0 at 2a, lane 1 at 2a + 1. -/
def laneCell (a : Addr) (lane1 : Bool) : Nat := 2 * a.toNat + lane1.toNat

/-- The word the array holds at an address. -/
def Memory.word (m : List Host.Cell) (a : Addr) : Word :=
  Word.ofLanes (Memory.get m (laneCell a true)) (Memory.get m (laneCell a false))

/-- Store a word in the lanes whose byte enables are asserted; the other lane keeps its contents (R99, R133). -/
def Memory.store (m : List Host.Cell) (a : Addr) (lanes : Lanes) (w : Word) : List Host.Cell :=
  let m0 := if lanes.lane0 then Memory.set m (laneCell a false) w.lane0 else m
  if lanes.lane1 then Memory.set m0 (laneCell a true) w.lane1 else m0

/-- A word with the lanes of the set taken from `new` and the others from `old` (R46). -/
def mergeLanes (lanes : Lanes) (new old : Word) : Word :=
  Word.ofLanes (if lanes.lane1 then new.lane1 else old.lane1) (if lanes.lane0 then new.lane0 else old.lane0)

/-! ### Geometry (R1, R2) -/

/-- The array size in words (R1). -/
def arrayWords (st : Straps) : Nat := 0x20000 * 2 ^ st.asz.toNat

/-- The journal record capacity r (R1). -/
def journalRecords (st : Straps) : Nat :=
  if st.jsz = 0#2 then 0 else if st.jsz = 1#2 then 128 else if st.jsz = 2#2 then 256 else 512

/-- Whether the journal is on (R1). -/
def journalOn (st : Straps) : Bool := st.jsz != 0#2

/-- The journal size in words, 8 + 3r, or 0 with the journal off (R1). -/
def journalWords (st : Straps) : Nat := if journalOn st then 8 + 3 * journalRecords st else 0

/-- The journal base (R1). -/
def journalBase (st : Straps) : Nat := arrayWords st - journalWords st

/-- The word address `off` words above the journal base (R115). -/
def journalAddr (st : Straps) (off : Nat) : Addr := BitVec.ofNat 20 (journalBase st + off)

/-! ### Domains and views -/

/-- The domain's enable option (R4, R15): on in EMPTY, OPEN and BROKEN. -/
def Domain.enabled (d : Domain) : Bool := d.state != .off

/-- Update one domain. -/
def modDomain (d : Dom) (f : Domain → Domain) (s : State) : State :=
  { s with domains := s.domains.set d (f (s.domains.get d)) }

/-- The entries of the four open groups (R42). -/
def openEntries (s : State) : Nat :=
  s.domains.at0.group.length + s.domains.at1.group.length + s.domains.at2.group.length + s.domains.at3.group.length

/-- The entries of queued groups (R42). -/
def queuedEntries (q : List GroupRecord) : Nat := (q.map (fun g => g.entries.length)).sum

/-- The entries in use: those of open groups and of queued groups (R42). -/
def usedEntries (s : State) : Nat := openEntries s + queuedEntries s.queue

/-- FREE: the entries that no group holds (R42, R60). -/
def freeCount (s : State) : Nat := Config.storeEntries - usedEntries s

/-- Quiescence: the store holds no entries and the queue holds no group (R11). -/
def quiescent (s : State) : Bool := usedEntries s == 0 && s.queue.isEmpty

/-- The queued group count of a domain (R17). -/
def queuedCount (s : State) (d : Dom) : Nat := (s.queue.filter (fun g => g.domain == d)).length

/-- Whether the queue has a free slot (R91). -/
def slotFree (s : State) : Bool := decide (s.queue.length < Config.queueSlots)

/-- Whether the engine is FAULTED or BLOCKED (R51). -/
def EngineState.stopped : EngineState → Bool
  | .faulted _ _ => true
  | .blocked _ _ => true
  | _ => false

/-- Whether the engine is BLOCKED (R10). -/
def EngineState.isBlocked : EngineState → Bool
  | .blocked _ _ => true
  | _ => false

/-- Whether the engine is RECOVERING (R74). -/
def EngineState.isRecovering : EngineState → Bool
  | .recovering _ => true
  | _ => false

/-- Whether a group is in flight: COPYING, MARKING, HOMING, CLEARING or FAULTED (R95, R111). -/
def EngineState.inFlight : EngineState → Bool
  | .copying _ _ => true
  | .marking _ => true
  | .homing _ => true
  | .clearing => true
  | .faulted _ _ => true
  | _ => false

/-- Drain is pending (R51). -/
def drainPending (s : State) : Bool := !s.queue.isEmpty && !s.engine.state.stopped && !s.power.low

/-- Put the engine in a state. -/
def setEngine (e : EngineState) (s : State) : State := { s with engine := { s.engine with state := e } }

/-- Put the Host Port in a state. -/
def setHost (p : HostPort) (s : State) : State := { s with host := { s.host with port := p } }

/-! ### The access in progress -/

/-- The reason for which the access in progress is held. -/
def setHold (h : Hold) (s : State) : State :=
  match s.host.port with
  | .inProgress p => setHost (.inProgress { p with hold := h }) s
  | _ => s

/-- The access in progress is held for `h`. -/
def heldFor (s : State) : Option Hold :=
  match s.host.port with
  | .inProgress p => some p.hold
  | _ => none

/-- The access completes and drives nothing: a write, or a malformed access. It goes to ENDING, or straight to
IDLE where its strobes ended early (R62, R64, R65). -/
def completeQuiet (s : State) : State :=
  match s.host.port with
  | .inProgress p => setHost (if p.ended then .idle else .ending) s
  | _ => s

/-- A read completes with the word (R64); where its strobes ended early it drives nothing (R65). -/
def completeRead (w : Word) (s : State) : State :=
  match s.host.port with
  | .inProgress p => setHost (if p.ended then .idle else .driving w) s
  | _ => s

/-- Record a dropped write and complete it: DROPCAUSE, WRITES_DROPPED and the DROPPED flag (R70). -/
def dropWrite (c : DropCause) (s : State) : State :=
  completeQuiet (setFlag .dropped (bump .writesDropped { s with host := { s.host with dropcause := c } }))

/-- HWAIT# is asserted (chapter 4, "The access in progress"). -/
def State.hwaitAsserted (s : State) : Bool :=
  match s.host.port with
  | .inProgress _ => true
  | _ => false

/-- The levels driven on HD and HDP: nothing but in DRIVING; there the read word and, with HPAR = 1, each lane's
odd parity bit, with HPAR = 0 both low (R69). -/
def State.hostDriven (s : State) : Option (Word × BitVec 2) :=
  match s.host.port with
  | .driving w =>
    some (w, if s.straps.hpar then
        BitVec.ofBool w.lane1.oddParity ++ BitVec.ofBool w.lane0.oddParity
      else 0#2)
  | _ => none

end Sys2Proof.Machine
end

