-- ==== Sys2Proof/Machine/Classifier.lean ====
section
/-! DEFINITION. Classification of host accesses (chapter 1) and the parity check (R68). -/

namespace Sys2Proof.Machine

/-- The page number of an address: the address divided by 256 (spec/00_scope.md, "Page"). -/
def pageOf (a : Addr) : BitVec 12 := a.extractLsb' 8 12

/-- The hash of a page: bits 11..6 exclusive-or bits 5..0, a position from 0 to 63 (R7). -/
def pageHash (p : BitVec 12) : BitVec 6 := p.extractLsb' 6 6 ^^^ p.setWidth 6

/-- Whether a Page Hash Set position is set: position 16k + j is bit j of HSETk (R7, R13). -/
def Classifier.hashSet (c : Classifier) (pos : BitVec 6) : Bool :=
  (c.hset.get (Ix4.ofBits (pos.extractLsb' 4 2))).getLsbD (pos.toNat % 16)

/-- Whether a window matches a page (R6). -/
def Window.covers (w : Window) (p : BitVec 12) : Bool :=
  w.enable && decide (w.base ≤ p) && decide (p ≤ w.limit)

/-- The class a matching window gives (R6). -/
def Window.cls (w : Window) : Class :=
  match w.kind with
  | .pass => .pass
  | .stage => .stage w.domain
  | .deny => .deny

/-- The class of the hash action (R7). -/
def Classifier.hashClass (c : Classifier) : Class :=
  match c.hashKind with
  | .stage => .stage c.hashDomain
  | .deny => .deny

/-- The class of the default action (R8). -/
def Classifier.defaultClass (c : Classifier) : Class :=
  match c.defact with
  | .pass => .pass
  | .deny => .deny

/-- The enabled domain whose commit cell the address is (R4, step 1). -/
def commitCellOf (s : State) (a : Addr) : Option Dom :=
  Ix4.all.find? (fun d => (s.domains.get d).enabled && (s.domains.get d).cell == a)

/-- Steps 4 to 6 of the classification: windows, hash set, default action (R4). -/
def tableClass (c : Classifier) (a : Addr) : Class :=
  match c.windows.toList.find? (fun w => w.covers (pageOf a)) with
  | some w => w.cls
  | none => if c.hashSet (pageHash (pageOf a)) then c.hashClass else c.defaultClass

/-- The class of an address (R4): the first condition that holds decides. -/
def classify (s : State) (a : Addr) : Class :=
  match commitCellOf s a with
  | some d => .commitCell d
  | none =>
    if arrayWords s.straps ≤ a.toNat then .outside
    else if journalBase s.straps ≤ a.toNat then .reserved
    else tableClass s.cl a

/-- The cause with which a write of a class is dropped at its classification, if it is (R9, R10): BLOCKED first,
then POWER, then the class's own. -/
def classDropCause (s : State) (c : Class) : Option DropCause :=
  if s.engine.state.isBlocked then some .blocked
  else if s.power.low then some .power
  else
    match c with
    | .outside => some .unmapped
    | .reserved => some .unmapped
    | .deny => some .deny
    | .stage d => if (s.domains.get d).enabled then none else some .domainOff
    | .pass => none
    | .commitCell _ => none

/-- Whether a write has bad parity: an enabled lane whose captured parity bit does not make it odd (R68). With
HPAR = 0 no parity was captured and none is checked. -/
def badParity (lanes : Lanes) (data : Word) (hdp : Option (BitVec 2)) : Bool :=
  match hdp with
  | none => false
  | some p =>
    (lanes.lane0 && p.getLsbD 0 != data.lane0.oddParity) || (lanes.lane1 && p.getLsbD 1 != data.lane1.oddParity)

/-- What the Host Port captures from the bus at an arrival (R62, R63), or nothing where no strobe is asserted. -/
def capture (hpar : Bool) (bus : HostBus) : Option Access :=
  if bus.hwe && bus.hoe then some .malformed
  else if bus.hwe then some (.write bus.ha bus.hbe bus.hd (if hpar then some bus.hdp else none))
  else if bus.hoe then some (.read bus.ha)
  else none

end Sys2Proof.Machine
end

