-- ==== Sys2Proof/Machine/ArrayPort.lean ====
section
/-! DEFINITION. The array port (chapter 8): waiting requests, arbitration with the starvation count, the start of an
access, and the levels on the array pins. -/

namespace Sys2Proof.Machine

/-- Begin an access: the port is BUSY with it, its timeout count 0 (R133). -/
def Port.begin (who : Requester) (r : Request) (p : Port) : Port :=
  { p with access := some { requester := who, request := r, count := 0, due := false } }

/-- Grant the host's request (R135, R136): with the engine waiting the count rises, held at 15, else it becomes 0. -/
def Port.grantHost (r : Request) (p : Port) : Port :=
  Port.begin .host r { p with
    hostReq := none
    starveCount := if p.engineReq.isSome then min Config.starveCountMax (p.starveCount + 1) else 0 }

/-- Grant the engine's request: the count becomes 0 (R136). -/
def Port.grantEngine (r : Request) (p : Port) : Port :=
  Port.begin .engine r { p with engineReq := none, starveCount := 0 }

/-- Grant the diagnostic read: the engine is not waiting, so the count becomes 0 (R136). -/
def Port.grantMgmt (r : Request) (p : Port) : Port :=
  Port.begin .mgmt r { p with mgmtReq := none, starveCount := 0 }

/-- One arbitration among the waiting requests (R135, R136). -/
def Port.arbitrate (p : Port) : Port :=
  match p.hostReq, p.engineReq, p.mgmtReq with
  | some h, some e, _ => if p.starveCount < p.starve.toNat then p.grantHost h else p.grantEngine e
  | some h, none, _ => p.grantHost h
  | none, some e, _ => p.grantEngine e
  | none, none, some m => p.grantMgmt m
  | none, none, none => { p with starveCount := 0 }

/-- The request joins those that wait. -/
def Port.wait (who : Requester) (r : Request) (p : Port) : Port :=
  match who with
  | .host => { p with hostReq := some r }
  | .engine => { p with engineReq := some r }
  | .mgmt => { p with mgmtReq := some r }

/-- A request arrives: at an idle port it is arbitrated at once, else it waits (R134, R135). -/
def Port.post (who : Requester) (r : Request) (p : Port) : Port :=
  if p.access.isSome then p.wait who r else (p.wait who r).arbitrate

/-- The access in progress ends, by completion or by timeout, and the port arbitrates among the requests that wait
at that moment (R133, R135, R137). -/
def Port.finish (p : Port) : Port := Port.arbitrate { p with access := none }

/-- A requester's request reaches the array port. -/
def postRequest (who : Requester) (r : Request) (s : State) : State :=
  { s with port := s.port.post who r }

/-- A read of one word: both byte enables (R133). -/
def readRequest (a : Addr) : Request := ⟨.read, a, 0#16, Lanes.both⟩

/-- A write of a word in a lane set (R133). -/
def writeRequest (a : Addr) (lanes : Lanes) (w : Word) : Request := ⟨.write, a, w, lanes⟩

/-- What an array write that was cut short left at its address: the array as it stood, or in the write's lanes the word
given (R137, R143); a lane whose byte enable is not asserted keeps its contents. -/
def interrupted (left : Option Word) (s : State) : List Host.Cell :=
  match s.port.access, left with
  | some a, some w =>
    match a.request.kind with
    | .write => Memory.store s.array a.request.addr a.request.lanes w
    | .read => s.array
  | _, _ => s.array

/-- The levels on the array pins while an access is in progress (R133): address, data driven on AD (none for a
read), asserted byte enables, and whether AWE# rather than AOE# is the strobe beside ACS#. -/
def State.arrayPins (s : State) : Option (Addr × Option Word × Lanes × Bool) :=
  match s.port.access with
  | none => none
  | some a =>
    match a.request.kind with
    | .read => some (a.request.addr, none, Lanes.both, false)
    | .write => some (a.request.addr, some a.request.data, a.request.lanes, true)

end Sys2Proof.Machine
end

