-- ==== Sys2Proof/Machine/Journal.lean ====
section
/-! DEFINITION. The journal's words (R115 to R118, chapter 12 "Journal layouts"): the check function, the records and
header of a group, the fields read back from record words, and the tests of recovery (R121, R122). -/

namespace Sys2Proof.Machine

/-- One bit of the check function (R117): compare it with bit 15 of the remainder, shift left, and where they
differed combine with 0x1021. -/
def crcBit (rem : Word) (b : Bool) : Word :=
  if b != rem.getLsbD 15 then (rem <<< 1) ^^^ 0x1021#16 else rem <<< 1

/-- The sixteen bits of a word, bit 15 first. -/
def wordBits (w : Word) : List Bool :=
  [w.getLsbD 15, w.getLsbD 14, w.getLsbD 13, w.getLsbD 12, w.getLsbD 11, w.getLsbD 10, w.getLsbD 9, w.getLsbD 8,
   w.getLsbD 7, w.getLsbD 6, w.getLsbD 5, w.getLsbD 4, w.getLsbD 3, w.getLsbD 2, w.getLsbD 1, w.getLsbD 0]

/-- The check function (R117): a 16-bit remainder that starts at 0xFFFF, over the words in order. -/
def crc (ws : List Word) : Word := ws.foldl (fun rem w => (wordBits w).foldl crcBit rem) 0xFFFF#16

/-- The three words of a record (R116, chapter 12 "Record"): address bits 15..0; tag flag, lane mask, address bits
19..16; data. -/
def JournalRecord.words (r : JournalRecord) : List Word :=
  [r.addr.setWidth 16,
   BitVec.ofBool r.tag ++ 0#9 ++ BitVec.ofBool r.lanes.lane1 ++ BitVec.ofBool r.lanes.lane0 ++ r.addr.extractLsb' 16 4,
   r.data]

/-- The record that three words carry; word 1's other bits are not examined (R116). -/
def JournalRecord.ofWords (w0 w1 w2 : Word) : JournalRecord where
  addr := w1.setWidth 4 ++ w0
  lanes := ⟨w1.getLsbD 4, w1.getLsbD 5⟩
  data := w2
  tag := w1.getLsbD 15

/-- The records that the record words of a journal carry, three words a record. -/
def recordsOfWords : List Word → List JournalRecord
  | w0 :: w1 :: w2 :: rest => JournalRecord.ofWords w0 w1 w2 :: recordsOfWords rest
  | _ => []

/-- The record of an entry: its address, lane mask and data, tag flag clear (chapter 6, "Applying with the journal"). -/
def entryRecord (e : Entry) : JournalRecord := ⟨e.addr, e.lanes, e.data, false⟩

/-- The tag record of a group: its commit cell, both lanes, its tag, tag flag set. -/
def GroupRecord.tagRecord (g : GroupRecord) : JournalRecord := ⟨g.cell, Lanes.both, g.tag, true⟩

/-- The n + 1 records of a group: its entries in arrival order, then the tag record. -/
def GroupRecord.records (g : GroupRecord) : List JournalRecord := g.entries.map entryRecord ++ [g.tagRecord]

/-- The record words of a group in journal order (R118). -/
def GroupRecord.words (g : GroupRecord) : List Word := g.records.flatMap JournalRecord.words

/-- Header words 0 to 6 of a group, word 0 taken as VALID (R98, R115). -/
def GroupRecord.headerBody (g : GroupRecord) : List Word :=
  [Config.validMarker, g.seq, BitVec.ofNat 16 g.domain.toNat, BitVec.ofNat 16 (g.entries.length + 1), g.tag, 0#16,
   crc g.words]

/-- Header words 0 to 7: word 7 is the header check over words 0 to 6 (R98, R118). -/
def GroupRecord.header (g : GroupRecord) : List Word := g.headerBody ++ [crc g.headerBody]

/-- The word at a place of a list of journal words (0 past its end). -/
def wordAt (ws : List Word) (i : Nat) : Word := ws.getD i 0#16

/-- The three tests on the header words (R121): the header check, a record count from 1 to r, a domain of 0 to 3. -/
def headerValid (st : Straps) (h : List Word) : Bool :=
  crc (h.take 7) == wordAt h 7
    && decide (1 ≤ (wordAt h 3).toNat) && decide ((wordAt h 3).toNat ≤ journalRecords st)
    && decide ((wordAt h 2).toNat ≤ 3)

/-- The tag flags that the records must have (R122): the last one's set, every other's clear. -/
def tagFlagsValid : List JournalRecord → Bool
  | [] => false
  | [r] => r.tag
  | r :: rest => !r.tag && tagFlagsValid rest

/-- The three tests on the record words (R122): the record check, the tag flags, addresses below the base. -/
def recordsValid (st : Straps) (h ws : List Word) : Bool :=
  crc ws == wordAt h 6 && tagFlagsValid (recordsOfWords ws)
    && (recordsOfWords ws).all (fun r => decide (r.addr.toNat < journalBase st))

/-- The records still to be written home, those with an empty lane mask passed over (R123). -/
def skipEmpty (rs : List JournalRecord) : List JournalRecord := rs.dropWhile (fun r => r.lanes.isEmpty)

/-- The home write of a record: its address, its data, its lane mask alone (R99, R123). -/
def homeWrite (r : JournalRecord) : Request := writeRequest r.addr r.lanes r.data

/-- The write of one journal word, both lanes (R97, R98, R100). -/
def journalWrite (st : Straps) (off : Nat) (w : Word) : Request := writeRequest (journalAddr st off) Lanes.both w

/-- The access that recovery makes next (R119 to R124). -/
def recoveryRequest (st : Straps) : Recovery → Option Request
  | .marker => some (readRequest (journalAddr st 0))
  | .header read => some (readRequest (journalAddr st read.length))
  | .records _ read => some (readRequest (journalAddr st (8 + read.length)))
  | .replay _ rest => rest.head?.map homeWrite
  | .finish _ => some (journalWrite st 0 Config.emptyMarker)

/-- The access that the engine makes next in its state (R97 to R100, R119 to R124, R129). In IDLE and FAULTED, and
in BLOCKED without a discard write, it makes none (R134). -/
def engineRequest (s : State) : Option Request :=
  match s.engine.state with
  | .recovering r => recoveryRequest s.straps r
  | .blocked _ discarding => if discarding then some (journalWrite s.straps 0 Config.emptyMarker) else none
  | .idle => none
  | .copying i w => s.queue.head?.map fun g =>
      journalWrite s.straps (8 + 3 * i + w) (wordAt g.words (3 * i + w))
  | .marking k => s.queue.head?.map fun g => journalWrite s.straps k (wordAt g.header k)
  | .homing i => s.queue.head?.bind fun g => (g.records[i]?).map homeWrite
  | .clearing => some (journalWrite s.straps 0 Config.emptyMarker)
  | .faulted _ _ => none

/-- The engine requests its next access (R103, R134). -/
def requestEngine (s : State) : State :=
  match engineRequest s with
  | some r => postRequest .engine r s
  | none => s

end Sys2Proof.Machine
end

