-- ==== Sys2Proof/Machine/Groups.lean ====
section
/-! DEFINITION. The group protocol's shared operations: age counters (R146, R147), the flow tests (R48), breaks (R31),
queuing a group (R25), the start of the head group (R96), slot grants (R29), and the examinations of a held staged
write (R53) and of a commit held for a slot (R28). -/

namespace Sys2Proof.Machine

/-! ### Age counters -/

/-- Whether a domain is the upper domain of a chained pair (R149). -/
def upperChained (t : Ticks) : Dom → Bool
  | .i0 => false
  | .i1 => t.chain01
  | .i2 => false
  | .i3 => t.chain23

/-- The reload value of a domain's age counter (R145, R149). -/
def ageReload (s : State) : Dom → Word
  | .i0 => if s.ticks.chain01 then s.domains.at1.agerld * 256#16 + s.domains.at0.agerld else s.domains.at0.agerld
  | .i1 => s.domains.at1.agerld
  | .i2 => if s.ticks.chain23 then s.domains.at3.agerld * 256#16 + s.domains.at2.agerld else s.domains.at2.agerld
  | .i3 => s.domains.at3.agerld

/-- Load or reload the age counter (R146, R147); the upper domain of a chained pair is never loaded (R149). -/
def loadAge (d : Dom) (s : State) : State :=
  if upperChained s.ticks d then s
  else modDomain d (fun x => { x with age := ageReload s d, ageDue := false }) s

/-- Whether the age counter of a domain is counting (R145, R148): it is decremented at the next tick. -/
def ageCounting (s : State) (d : Dom) : Bool :=
  let x := s.domains.get d
  x.state == .opened && !x.closing && !x.autoPending && x.age != 0#16 && !upperChained s.ticks d

/-! ### Flow state -/

/-- The flow test after an entry is taken (R48). -/
def flowAfterTake (s : State) : State :=
  if s.store.flow = .flowing ∧ freeCount s ≤ s.store.stalllvl.toNat then
    bump .stallEvents (setFlag .throttle { s with store := { s.store with flow := .throttled } })
  else s

/-- The flow test after a release that found `before` entries free: made once, and only where something was
released (R48, R57). -/
def flowAfterRelease (before : Nat) (s : State) : State :=
  if s.store.flow = .throttled ∧ before < freeCount s ∧ s.store.resumelvl.toNat ≤ freeCount s then
    { s with store := { s.store with flow := .flowing } }
  else s

/-- The flow test after an accepted threshold write (R48, R49). -/
def flowRetest (s : State) : State :=
  match s.store.flow with
  | .flowing => flowAfterTake s
  | .throttled =>
    if s.store.resumelvl.toNat ≤ freeCount s then { s with store := { s.store with flow := .flowing } } else s

/-! ### Breaks -/

/-- A domain after a break (R31). -/
def Domain.broke (c : BreakCause) (x : Domain) : Domain :=
  { x with state := .broken, closing := false, autoPending := false, group := [], age := 0#16, ageDue := false,
           breakCause := c }

/-- Break a domain in EMPTY or OPEN, without the flow test (R31, R33: in another state the event is no break). -/
def breakCore (d : Dom) (c : BreakCause) (s : State) : State :=
  match (s.domains.get d).state with
  | .empty => setFlag .broken (bump .groupsBroken (modDomain d (Domain.broke c) s))
  | .opened => setFlag .broken (bump .groupsBroken (modDomain d (Domain.broke c) s))
  | .off => s
  | .broken => s

/-- Break one domain and make the flow test with its entries released (R31, R57). -/
def breakDomain (d : Dom) (c : BreakCause) (s : State) : State := flowAfterRelease (freeCount s) (breakCore d c s)

/-- Break one domain if it is OPEN or closing, without the flow test (R35). -/
def breakIfOpen (c : BreakCause) (s : State) (d : Dom) : State :=
  if (s.domains.get d).state = .opened ∨ (s.domains.get d).closing = true then breakCore d c s else s

/-- Break every domain that is OPEN or closing, without the flow test (R35, R110, R160). -/
def breakAll (c : BreakCause) (s : State) : State := Ix4.all.foldl (breakIfOpen c) s

/-- A domain after a commit-cell write that finds it BROKEN: EMPTY (R26, R27, R36). -/
def Domain.acknowledge (x : Domain) : Domain := if x.state = .broken then { x with state := .empty } else x

/-- A commit handled as a commit to BROKEN: dropped with cause BROKEN, domain to EMPTY (R26, R28). -/
def commitToBroken (d : Dom) (s : State) : State := dropWrite .broken (modDomain d Domain.acknowledge s)

/-! ### Queuing and starting groups -/

/-- The record of domain d's group queued now with a tag (R25). -/
def newRecord (s : State) (d : Dom) (tag : Word) (sync : Bool) : GroupRecord :=
  let x := s.domains.get d
  { seq := s.engine.seq, domain := d, tag := tag, cell := x.cell, sync := sync, entries := x.group }

/-- A domain after its group is queued with a tag (R21, R25). -/
def Domain.queued (tag : Word) (x : Domain) : Domain :=
  { x with state := .empty, closing := false, autoPending := false, group := [], lastTag := tag, age := 0#16,
           ageDue := false }

/-- Queue the open group of d, or a tag-only group from EMPTY (R25). -/
def queueGroup (d : Dom) (tag : Word) (sync : Bool) (s : State) : State :=
  bump .groupsCommitted
    { s with
      queue := s.queue ++ [newRecord s d tag sync]
      engine := { s.engine with seq := s.engine.seq + 1#16 }
      domains := s.domains.set d ((s.domains.get d).queued tag) }

/-- The auto tag of a domain (R37). -/
def autoTag (s : State) (d : Dom) : Word :=
  let t := (s.domains.get d).lastTag + 1#16
  if t = s.abortval then t + 1#16 else t

/-- The conditions under which the engine begins the head group (R96). -/
def canBegin (s : State) : Bool :=
  decide (s.engine.state = .idle) && !s.engine.hold && !s.queue.isEmpty && !(s.power.low && !journalOn s.straps)

/-- The engine begins the head group: COPYING, or HOMING with the journal off, at record 0 (R96). -/
def beginHead (s : State) : State :=
  requestEngine (setEngine (if journalOn s.straps then .copying 0 0 else .homing 0) s)

/-- Begin the head group where the conditions hold (R96). -/
def tryBegin (s : State) : State := if canBegin s then beginHead s else s

/-- The held commit completes and no record waits for it any more (R30, R91). -/
def clearSyncFlags (s : State) : State := { s with queue := s.queue.map (fun g => { g with sync := false }) }

/-- A commit held for sync completes; any other access is left as it is (R30). -/
def completeSync (s : State) : State :=
  match heldFor s with
  | some (.sync _) => completeQuiet s
  | _ => s

/-- The domain's group is queued by its host commit: with the sync option on the commit goes on held for sync, else
it completes (R26, R30). A commit that was held for a slot keeps its timer (R30, R71) and, where a tick has made its expiry
due, the due mark, so that the expiry then ends the hold for sync (DESIGN CHOICE, notes/assumptions/26.md). -/
def commitQueued (d : Dom) (tag : Word) (s : State) : State :=
  if (s.domains.get d).sync then setHold (.sync d) (queueGroup d tag true s)
  else completeQuiet (queueGroup d tag false s)

/-- A free slot is given to the commit held for one, if there is one (R29). -/
def grantCommit (s : State) : State :=
  match heldFor s with
  | some (.queueSlot d tag) => if slotFree s then commitQueued d tag s else s
  | _ => s

/-- A free slot is given to a domain that is OPEN with auto-commit pending: queued with its auto tag (R29, R37). -/
def grantPending (s : State) (d : Dom) : State :=
  if (s.domains.get d).state = .opened ∧ (s.domains.get d).autoPending = true ∧ slotFree s = true then
    queueGroup d (autoTag s d) false s
  else s

/-- The freed slots are given in turn: to a commit held for a slot, then to the pending domains in ascending order (R29). -/
def grantSlots (s : State) : State := Ix4.all.foldl grantPending (grantCommit s)

/-! ### Placing a staged write -/

/-- Whether an open group holds an entry at an address (R44). -/
def holdsAddr (es : List Entry) (a : Addr) : Bool := es.any (fun e => e.addr == a)

/-- The entry a coalescing write leaves: its lanes replaced and added (R46). -/
def Entry.merge (lanes : Lanes) (w : Word) (e : Entry) : Entry :=
  { e with lanes := e.lanes.union lanes, data := mergeLanes lanes w e.data }

/-- A group after a write coalesces into its entry at the address (R46). -/
def coalesceInto (es : List Entry) (a : Addr) (lanes : Lanes) (w : Word) : List Entry :=
  es.map (fun e => if e.addr = a then e.merge lanes w else e)

/-- The entry a staged write fills: 0x00 in a lane that is not enabled (R45). -/
def newEntry (a : Addr) (lanes : Lanes) (w : Word) : Entry := ⟨a, lanes, mergeLanes lanes w 0#16⟩

/-- In IDLE mode a write taken into an OPEN group reloads the age counter, unless auto-commit is pending (R147). -/
def reloadIfIdle (d : Dom) (s : State) : State :=
  if (s.domains.get d).ageMode = .idle ∧ (s.domains.get d).autoPending = false then loadAge d s else s

/-- A staged write is taken by coalescing, and completes (R46, R22). -/
def takeCoalesce (d : Dom) (a : Addr) (lanes : Lanes) (w : Word) (s : State) : State :=
  completeQuiet (reloadIfIdle d (bump .coalesced
    (modDomain d (fun x => { x with group := coalesceInto x.group a lanes w }) s)))

/-- A staged write is taken into a new entry, and completes: from EMPTY its group opens and the age counter is
loaded (R22, R45, R146), in OPEN the entry is appended (R147); then the flow test (R48). -/
def takeNew (d : Dom) (a : Addr) (lanes : Lanes) (w : Word) (s : State) : State :=
  let s1 := bump .writesStaged
    (modDomain d (fun x => { x with state := .opened, group := x.group ++ [newEntry a lanes w] }) s)
  let s2 := if (s.domains.get d).state = .opened then reloadIfIdle d s1 else loadAge d s1
  completeQuiet (flowAfterTake s2)

/-- Whether a staged write coalesces (R44, test 1). -/
def coalesces (s : State) (d : Dom) (a : Addr) : Bool :=
  (s.domains.get d).state == .opened && holdsAddr (s.domains.get d).group a

/-- Whether a staged write finds the group at its ceiling (R23; R44, test 2). -/
def atCeiling (s : State) (d : Dom) : Bool :=
  (s.domains.get d).state == .opened && decide ((s.domains.get d).ceil.toNat ≤ (s.domains.get d).group.length)

/-- A staged write is placed by the tests of R44 that do not hold it: coalesce, ceiling, new entry. -/
def placeNow (d : Dom) (a : Addr) (lanes : Lanes) (w : Word) (s : State) : State :=
  if coalesces s d a then takeCoalesce d a lanes w s
  else if atCeiling s d then dropWrite .broken (breakDomain d .ceiling s)
  else takeNew d a lanes w s

/-! ### Examinations -/

/-- One examination of a staged write held for store space, `expired` where its hold limit has just expired (R53). -/
def examineWrite (expired : Bool) (d : Dom) (a : Addr) (lanes : Lanes) (w : Word) (s : State) : State :=
  if (s.domains.get d).state = .broken then
    dropWrite (if (s.domains.get d).breakCause = .power then .power else .broken) s
  else if s.power.low then dropWrite .power s
  else if s.store.flow = .flowing then placeNow d a lanes w s
  else if expired then dropWrite .broken (setFlag .hold (breakDomain d .hold s))
  else if drainPending s then s
  else dropWrite .broken (breakDomain d .storeFull s)

/-- One examination of a commit held for a queue slot (R28). The cases of power-low and STAGE_CLEAR are made by
those events themselves (R35). -/
def examineCommit (expired : Bool) (d : Dom) (tag : Word) (s : State) : State :=
  if slotFree s then tryBegin (commitQueued d tag s)
  else if expired then commitToBroken d (setFlag .hold (breakDomain d .hold s))
  else if drainPending s then s
  else commitToBroken d (breakDomain d .queueFull s)

/-- The one held access is examined, if it is a staged write held for space or a commit held for a slot. -/
def examine (expired : Bool) (s : State) : State :=
  match s.host.port with
  | .inProgress p =>
    match p.hold, p.access with
    | .storeSpace d, .write a lanes w _ => examineWrite expired d a lanes w s
    | .queueSlot d tag, _ => examineCommit expired d tag s
    | _, _ => s
  | _ => s

/-- Where the engine begins the head group, the held access is examined: a change of engine state (R52, R107). -/
def beginAndExamine (s : State) : State := if canBegin s then examine false (beginHead s) else s

end Sys2Proof.Machine
end

