-- ==== Sys2Proof/Machine/HostPort.lean ====
section
/-! DEFINITION. Host accesses: the forwarding lookup (chapter 5), staged and commit-cell writes (chapter 2), pass-through
writes (R140), and the handling of an access when it is classified (R3, R9, R74). -/

namespace Sys2Proof.Machine

/-! ### Reads -/

/-- A lane of a word that a group's entry at an address covers (R79). -/
def groupLane (es : List Entry) (a : Addr) (lane1 : Bool) : Option Byte :=
  match es.find? (fun e => e.addr == a) with
  | none => none
  | some e =>
    if lane1 then (if e.lanes.lane1 then some e.data.lane1 else none)
    else (if e.lanes.lane0 then some e.data.lane0 else none)

/-- The groups that the lookup of domain d searches, the newest first: the open group, then the queued groups from
the tail to the head (R78, R79). -/
def lookupGroups (s : State) (d : Dom) : List (List Entry) :=
  (s.domains.get d).group :: ((s.queue.filter (fun g => g.domain == d)).reverse.map (fun g => g.entries))

/-- A lane as the store covers it: from the newest group whose entry at the address holds the lane (R79). -/
def storeLane (s : State) (d : Dom) (a : Addr) (lane1 : Bool) : Option Byte :=
  (lookupGroups s d).findSome? (fun es => groupLane es a lane1)

/-- The result of a merge read: each covered lane from the store, each other lane from the array's word (R81). -/
def mergedWord (s : State) (d : Dom) (a : Addr) (w : Word) : Word :=
  Word.ofLanes ((storeLane s d a true).getD w.lane1) ((storeLane s d a false).getD w.lane0)

/-- Whether the store covers at least one lane (R88). -/
def anyLane (s : State) (d : Dom) (a : Addr) : Bool := (storeLane s d a true).isSome || (storeLane s d a false).isSome

/-- Whether the store covers both lanes (R80). -/
def bothLanes (s : State) (d : Dom) (a : Addr) : Bool := (storeLane s d a true).isSome && (storeLane s d a false).isSome

/-- The read is held for the array, for the reason given, and requests one read of its address (R71, R134). -/
def holdForRead (h : Hold) (a : Addr) (s : State) : State := postRequest .host (readRequest a) (setHold h s)

/-- A staged read of an enabled domain: answered at the lookup where both lanes are covered (R80), else held for the
array (R81). -/
def stagedRead (d : Dom) (a : Addr) (s : State) : State :=
  if bothLanes s d a then completeRead (mergedWord s d a 0#16) (bump .forwardHits s)
  else holdForRead (.mergeRead d) a s

/-- A classified read (R9, R77, R78). -/
def classifiedRead (c : Class) (a : Addr) (s : State) : State :=
  match c with
  | .outside => completeRead 0#16 s
  | .reserved => completeRead 0#16 s
  | .stage d => if (s.domains.get d).enabled then stagedRead d a s else holdForRead .plainRead a s
  | .commitCell _ => holdForRead .plainRead a s
  | .pass => holdForRead .plainRead a s
  | .deny => holdForRead .plainRead a s

/-! ### Writes -/

/-- A write with bad parity is dropped with cause PARITY and the PARITY flag is set (R68). -/
def dropParity (s : State) : State := dropWrite .parity (setFlag .parity s)

/-- A staged write that reaches domain d's controller (R22): bad parity breaks an EMPTY or OPEN domain; BROKEN drops;
else it is placed, or held for store space and examined at once (R44, R53). -/
def stagedWrite (d : Dom) (a : Addr) (lanes : Lanes) (w : Word) (bad : Bool) (s : State) : State :=
  if bad then dropParity (breakDomain d .parity s)
  else if (s.domains.get d).state = .broken then dropWrite .broken s
  else if coalesces s d a ∨ atCeiling s d ∨ s.store.flow = .flowing then placeNow d a lanes w s
  else examine false (setHold (.storeSpace d) s)

/-- A domain after the host's abort of its open group (R27). -/
def Domain.aborted (x : Domain) : Domain :=
  match x.state with
  | .opened => { x with state := .empty, autoPending := false, group := [], age := 0#16, ageDue := false }
  | .broken => { x with state := .empty }
  | .empty => x
  | .off => x

/-- An abort (R27): OPEN releases its group, BROKEN and EMPTY end EMPTY; it is no drop and completes. -/
def abortGroup (d : Dom) (s : State) : State :=
  completeQuiet (flowAfterRelease (freeCount s) (modDomain d Domain.aborted s))

/-- A commit in EMPTY or OPEN with the queue full is held for a slot: closing is set, an auto-commit pending is
cleared, the age counter stops (R26, R28, R155), and the commit is examined at arrival. -/
def holdCommit (d : Dom) (tag : Word) (s : State) : State :=
  examine false (setHold (.queueSlot d tag)
    (modDomain d (fun x => { x with closing := true, autoPending := false, ageDue := false }) s))

/-- A commit (R26). -/
def commitGroup (d : Dom) (tag : Word) (s : State) : State :=
  if (s.domains.get d).state = .broken then commitToBroken d s
  else if slotFree s then tryBegin (commitQueued d tag s)
  else holdCommit d tag s

/-- A commit-cell write that reaches domain d's controller: lanes, then parity, then data (R24). One lane alone breaks
an OPEN domain only. -/
def commitCellWrite (d : Dom) (lanes : Lanes) (w : Word) (bad : Bool) (s : State) : State :=
  if !lanes.isBoth then
    dropWrite .format (if (s.domains.get d).state = .opened then breakDomain d .format s else s)
  else if bad then dropParity (breakDomain d .parity s)
  else if w = s.abortval then abortGroup d s
  else commitGroup d w s

/-- A pass-through write: bad parity drops it, else it is held for the array and requests one write (R68, R140). -/
def passWrite (a : Addr) (lanes : Lanes) (w : Word) (bad : Bool) (s : State) : State :=
  if bad then dropParity s else postRequest .host (writeRequest a lanes w) (setHold .passWrite s)

/-- A classified write: dropped by engine state, power state or class (R10), else handed on by its class (R9). -/
def classifiedWrite (c : Class) (a : Addr) (lanes : Lanes) (w : Word) (hdp : Option (BitVec 2)) (s : State) : State :=
  match classDropCause s c with
  | some cause => dropWrite cause s
  | none =>
    match c with
    | .commitCell d => commitCellWrite d lanes w (badParity lanes w hdp) s
    | .stage d => stagedWrite d a lanes w (badParity lanes w hdp) s
    | .pass => passWrite a lanes w (badParity lanes w hdp) s
    | .outside => s
    | .reserved => s
    | .deny => s

/-- The Host Port presents the access in progress (R3, R62, R66, R74): a malformed access and a zero-lane write
complete with no effect; every other access is classified and goes on by its class. -/
def presentAccess (a : Access) (s : State) : State :=
  match a with
  | .malformed => completeQuiet s
  | .read addr => classifiedRead (classify s addr) addr s
  | .write addr lanes w hdp =>
    if lanes.isEmpty then completeQuiet s
    else classifiedWrite (classify s addr) addr lanes w hdp s

/-- An access arrives at an idle Host Port (R62): it is captured, held while the engine is RECOVERING (R74), else
presented at once. -/
def arrive (a : Access) (s : State) : State :=
  if s.engine.state.isRecovering then
    setHost (.inProgress { access := a, hold := .recovery, count := 0, due := false, ended := false }) s
  else
    presentAccess a
      (setHost (.inProgress { access := a, hold := .deciding, count := 0, due := false, ended := false }) s)

/-- The Host Port has returned from IN PROGRESS straight to IDLE in the step from `before` to `s`, and HCS# and a strobe
stand asserted again: that return is an arrival, of the levels on the bus at that moment (R65). It comes after the other
effects of the step. -/
def settle (before s : State) : State :=
  match before.host.port, s.host.port, s.host.again with
  | .inProgress _, .idle, some bus =>
    let s1 := { s with host := { s.host with again := none } }
    match capture s.straps.hpar bus with
    | some a => arrive a s1
    | none => s1
  | _, _, _ => s

/-- HCS# and a strobe are seen asserted. An idle Host Port sees an arrival (R62). Under an access whose strobes ended early
the levels stand for the return to IDLE (R65); in every other state the change is no arrival (R62). -/
def seeArrival (bus : HostBus) (s : State) : State :=
  match s.host.port, capture s.straps.hpar bus with
  | .idle, some a => arrive a s
  | .inProgress p, some _ => if p.ended then { s with host := { s.host with again := some bus } } else s
  | _, _ => s

/-- HCS# or both strobes are seen deasserted after the end of an access: from DRIVING or ENDING to IDLE (R62). -/
def seeReturnIdle (s : State) : State :=
  match s.host.port with
  | .driving _ => setHost .idle s
  | .ending => setHost .idle s
  | .idle => s
  | .inProgress _ => s

/-- The strobes end under the access in progress, which goes on and will complete straight to IDLE; signals that had been
asserted again end too (R65). -/
def seeStrobesEnd (s : State) : State :=
  match s.host.port with
  | .inProgress p => { s with host := { s.host with port := .inProgress { p with ended := true }, again := none } }
  | .idle => s
  | .driving _ => s
  | .ending => s

/-- Recovery ends: the access held through it is presented as if it had just arrived, its hold timer at 0 (R72, R74). -/
def releaseHeld (s : State) : State :=
  match s.host.port with
  | .inProgress p =>
    match p.hold with
    | .recovery =>
      presentAccess p.access (setHost (.inProgress { p with hold := .deciding, count := 0, due := false }) s)
    | _ => s
  | _ => s

/-- The result of the host's array read goes to the access that waits for it (R64, R81, R88). -/
def hostReadDone (w : Word) (s : State) : State :=
  match s.host.port with
  | .inProgress p =>
    match p.hold, p.access with
    | .mergeRead d, .read a =>
      completeRead (mergedWord s d a w) (if anyLane s d a then bump .forwardHits s else s)
    | .plainRead, _ => completeRead w s
    | _, _ => s
  | _ => s

/-- The end of the host's array access: a pass-through write completes (R64, R140), a read takes its word. -/
def hostAccessDone (w : Word) (s : State) : State :=
  match heldFor s with
  | some .passWrite => completeQuiet s
  | _ => hostReadDone w s

/-- A timed-out array access of the host (R138): a read completes with 0xFFFF, a pass-through write completes; the
ARRAY flag is set and ARRSRC becomes HOST. -/
def hostTimedOut (s : State) : State :=
  let s1 := setFlag .array { s with port := { s.port with arrsrc := .host } }
  match heldFor s1 with
  | some .passWrite => completeQuiet s1
  | some .plainRead => completeRead 0xFFFF#16 s1
  | some (.mergeRead _) => completeRead 0xFFFF#16 s1
  | _ => s1

end Sys2Proof.Machine
end

