-- ==== Sys2Proof/Machine/EngineOps.lean ====
section
/-! DEFINITION. The apply engine: its steps at the completion and the timeout of an access (R97 to R104), the retire
(R101), recovery (R119 to R126), the discard write (R129, R130) and the effects of the engine commands (R107 to
R111, R128, R129). -/

namespace Sys2Proof.Machine

/-! ### Apply -/

/-- The engine goes on in a state with its next access. -/
def goOn (e : EngineState) (s : State) : State := requestEngine (setEngine e s)

/-- The engine enters another state with its first access, and the held access is examined (R28, R52). -/
def enter (e : EngineState) (s : State) : State := examine false (goOn e s)

/-- The head group retires (R101), with every effect together, then one examination (R52). -/
def retire (s : State) : State :=
  match s.queue with
  | [] => s
  | g :: rest =>
    let s1 := modDomain g.domain (fun x => { x with appliedTag := g.tag })
      (setEngine .idle { s with queue := rest })
    let s2 := flowAfterRelease (freeCount s) (setFlag .applied (bump .groupsApplied s1))
    examine false (tryBegin (grantSlots (if g.sync then completeSync s2 else s2)))

/-- The number of entries of the head group (R97). -/
def headCount (s : State) : Nat :=
  match s.queue with
  | [] => 0
  | g :: _ => g.entries.length

/-- The write of a record word completes (R97). -/
def copyingDone (i w : Nat) (s : State) : State :=
  if w < 2 then goOn (.copying i (w + 1)) s
  else if i < headCount s then goOn (.copying (i + 1) 0) s
  else enter (.marking 1) s

/-- The write of a header word completes: words 1 to 7, then word 0 (R98). -/
def markingDone (k : Nat) (s : State) : State :=
  if k = 0 then enter (.homing 0) s
  else if k < 7 then goOn (.marking (k + 1)) s
  else goOn (.marking 0) s

/-- A home write completes (R99, R102). -/
def homingDone (i : Nat) (s : State) : State :=
  if i < headCount s then goOn (.homing (i + 1)) s
  else if journalOn s.straps then enter .clearing s
  else retire s

/-! ### Recovery -/

/-- Recovery ends in a state, and the held host access is released (R74, R120, R124, R125, R126). -/
def endRecovery (e : EngineState) (s : State) : State := releaseHeld (setEngine e s)

/-- Recovery ends in BLOCKED with a cause, and RECFAIL is set (R125, R126). -/
def failRecovery (c : BlockCause) (s : State) : State := endRecovery (.blocked c false) (setFlag .recfail s)

/-- The next record goes home, or the journal is emptied when none is left (R123, R124). -/
def replayOn (h : List Word) (rest : List JournalRecord) (s : State) : State :=
  match skipEmpty rest with
  | [] => goOn (.recovering (.finish h)) s
  | r :: rs => goOn (.recovering (.replay h (r :: rs))) s

/-- A header word has been read (R120, R121). -/
def headerRead (h : List Word) (s : State) : State :=
  if h.length < 8 then goOn (.recovering (.header h)) s
  else if headerValid s.straps h then goOn (.recovering (.records h [])) s
  else failRecovery .check s

/-- A record word has been read (R121, R122). -/
def recordRead (h ws : List Word) (s : State) : State :=
  if ws.length < 3 * (wordAt h 3).toNat then goOn (.recovering (.records h ws)) s
  else if recordsValid s.straps h ws then replayOn h (recordsOfWords ws) s
  else failRecovery .check s

/-- The replay's EMPTY write completes (R124). -/
def replayDone (h : List Word) (s : State) : State :=
  endRecovery .idle (setFlag .recovered
    { s with engine := { s.engine with
        rseq := wordAt h 1, rdom := wordAt h 2, rtag := wordAt h 4, rcnt := wordAt h 3,
        seq := wordAt h 1 + 1#16 } })

/-- An access of recovery completes, with the word read (R120 to R124). -/
def recoveryDone (r : Recovery) (w : Word) (s : State) : State :=
  match r with
  | .marker => if w = Config.validMarker then headerRead [w] s else endRecovery .idle s
  | .header read => headerRead (read ++ [w]) s
  | .records h read => recordRead h (read ++ [w]) s
  | .replay h rest => replayOn h rest.tail s
  | .finish h => replayDone h s

/-- Entry to RECOVERING: the recovery registers are cleared and the read of journal word 0 is requested (R119). -/
def startRecovery (s : State) : State :=
  goOn (.recovering .marker)
    { s with engine := { s.engine with rseq := 0#16, rdom := 0#16, rtag := 0#16, rcnt := 0#16 } }

/-! ### The end of an engine access -/

/-- An engine access completes, with the word read where it was a read (R97 to R101, R120 to R124, R129). -/
def engineAccessDone (w : Word) (s : State) : State :=
  match s.engine.state with
  | .recovering r => recoveryDone r w s
  | .blocked _ discarding => if discarding then setEngine .idle s else s
  | .idle => s
  | .copying i k => copyingDone i k s
  | .marking k => markingDone k s
  | .homing i => homingDone i s
  | .clearing => retire s
  | .faulted _ _ => s

/-- The engine faults in a phase at a record index (R104), and the held access is examined. -/
def fault (p : Phase) (i : Nat) (s : State) : State := examine false (setEngine (.faulted p i) (setFlag .fault s))

/-- An engine access times out (R139): ARRSRC is ENGINE and the ARRAY flag is set, then FAULTED (R104), BLOCKED
(R126), or BLOCKED still (R130). -/
def engineTimedOut (s : State) : State :=
  let s1 := setFlag .array { s with port := { s.port with arrsrc := .engine } }
  match s.engine.state with
  | .recovering _ => failRecovery .array s1
  | .blocked c discarding => if discarding then setEngine (.blocked .array false) (setFlag .recfail s1) else setEngine (.blocked c false) s1
  | .idle => s1
  | .copying i _ => fault .copying i s1
  | .marking k => fault .marking k s1
  | .homing i => fault .homing i s1
  | .clearing => fault .clearing 0 s1
  | .faulted _ _ => s1

/-! ### The end of an array access -/

/-- ARDY completes the access in progress (R133): a write is stored in its lanes, the port arbitrates among the
requests that wait (R135), then the requester takes the result (R142 for the diagnostic read). -/
def accessComplete (ad : Option Word) (s : State) : State :=
  match s.port.access with
  | none => s
  | some a =>
    let w := ad.getD (Memory.word s.array a.request.addr)
    let array := match a.request.kind with
      | .write => Memory.store s.array a.request.addr a.request.lanes a.request.data
      | .read => s.array
    let s1 := { s with array := array, port := s.port.finish }
    match a.requester with
    | .host => hostAccessDone w s1
    | .engine => engineAccessDone w s1
    | .mgmt => { s1 with diag := { s1.diag with data := w, status := .done } }

/-- ARDY is seen: the access completes, and a host access that it completes may return the Host Port to IDLE (R65). -/
def takeArdy (ad : Option Word) (s : State) : State := settle s (accessComplete ad s)

/-- The access in progress times out where a tick has made its timeout due (R137): the strobes are removed, the port
arbitrates, the requester is told (R138, R139, R142). -/
def accessTimeout (left : Option Word) (s : State) : State :=
  match s.port.access with
  | none => s
  | some a =>
    if a.due then
      let s1 := { s with array := interrupted left s, port := s.port.finish }
      match a.requester with
      | .host => hostTimedOut s1
      | .engine => engineTimedOut s1
      | .mgmt => { s1 with diag := { s1.diag with data := 0xFFFF#16, status := .timeout } }
    else s

end Sys2Proof.Machine
end

