-- ==== Sys2Proof/Machine/Power.lean ====
section
/-! DEFINITION. Time and power: what one tick does to the counts (R72, R137, R144, R148), the expiries that it makes due
(R73, R137, R151), and the Power Warning Filter with entry to POWER_LOW and the return to NORMAL (R158, R160, R161,
R166). -/

namespace Sys2Proof.Machine

/-! ### Counts of ticks -/

/-- Whether a hold is under the hold limit (R71). -/
def Hold.limited : Hold → Bool
  | .storeSpace _ => true
  | .queueSlot _ _ => true
  | .sync _ => true
  | .deciding => false
  | .plainRead => false
  | .mergeRead _ => false
  | .passWrite => false
  | .recovery => false

/-- Whether a count has reached a limit in force, 0 being no limit (R72, R137). -/
def limitReached (limit : Word) (count : Nat) : Bool := limit != 0#16 && decide (limit.toNat ≤ count)

/-- The hold timer at a tick (R72): it rises for an access under a limited reason, and the comparison with HOLDLIM
makes its expiry due. -/
def tickHold (s : State) : State :=
  match s.host.port with
  | .inProgress p =>
    if p.hold.limited then
      setHost (.inProgress { p with count := p.count + 1, due := limitReached s.host.holdlim (p.count + 1) }) s
    else s
  | _ => s

/-- The timeout count at a tick (R137): it rises for the access in progress, and the comparison with ARRTO makes its
timeout due. -/
def tickArray (s : State) : State :=
  match s.port.access with
  | none => s
  | some a =>
    { s with port := { s.port with
        access := some { a with count := a.count + 1, due := limitReached s.port.arrto (a.count + 1) } } }

/-- A domain's age counter at a tick (R148): decremented where it is counting; at 0 its expiry is due. -/
def tickAge (s : State) (d : Dom) : Domain :=
  let x := s.domains.get d
  if ageCounting s d then { x with age := x.age - 1#16, ageDue := x.age == 1#16 } else x

/-- Every count of ticks takes the tick, each on its own state (R144); the divider count starts again from 0. -/
def tickCounts (s : State) : State :=
  let s1 := tickArray (tickHold s)
  { s1 with domains := Four.ofFn (tickAge s), ticks := { s1.ticks with divCount := 0 } }

/-! ### Expiries -/

/-- The hold limit of the access in progress expires where a tick has made its expiry due (R73): held for store
space or a slot it is examined as expired; held for sync it completes, its record's sync-waiter flag is cleared
and the HOLD flag is set. -/
def holdExpiry (s : State) : State :=
  match s.host.port with
  | .inProgress p =>
    if p.due then
      match p.hold with
      | .sync _ => completeQuiet (setFlag .hold (clearSyncFlags s))
      | _ => examine true s
    else s
  | _ => s

/-- The age counter of domain d expires where a tick has made its expiry due (R151): the AGE flag, then the action
NOTIFY (R152), COMMIT (R153) or ABANDON (R154). -/
def ageExpiry (d : Dom) (s : State) : State :=
  if (s.domains.get d).ageDue then
    let s1 := setFlag .age (modDomain d (fun x => { x with ageDue := false }) s)
    match (s.domains.get d).ageAction with
    | .notify => s1
    | .commit =>
      if slotFree s1 then beginAndExamine (queueGroup d (autoTag s1 d) false s1)
      else modDomain d (fun x => { x with autoPending := true }) s1
    | .abandon => examine false (breakDomain d .age s1)
  else s

/-- The effect of one of the expiries a tick can bring. -/
def expire (s : State) (e : Expiry) : State :=
  match e with
  | .hold => holdExpiry s
  | .array left => accessTimeout left s
  | .age d => ageExpiry d s

/-- One of the expiries a tick can bring is taken; it may return the Host Port to IDLE (R65). -/
def takeExpiry (s : State) (e : Expiry) : State := settle s (expire s e)

/-! ### Power-low -/

/-- The access in progress at entry to POWER_LOW (R161): a staged write held for space and a commit held for a slot
are dropped with cause POWER; a commit held for sync completes and its record's flag is cleared; any other goes on. -/
def endHeldByPower (s : State) : State :=
  match heldFor s with
  | some (.storeSpace _) => dropWrite .power s
  | some (.queueSlot _ _) => dropWrite .power s
  | some (.sync _) => completeQuiet (clearSyncFlags s)
  | _ => s

/-- Entry to POWER_LOW (R160, R161): the state and the POWER flag, the breaks with their entries returned together
and one flow test, then the access in progress. -/
def powerEntry (s : State) : State :=
  endHeldByPower (flowAfterRelease (freeCount s)
    (breakAll .power (setFlag .power { s with power := { s.power with low := true } })))

/-- Return to NORMAL (R166): the state and the POWEROK flag; with the journal off it may begin the head group. -/
def powerReturn (s : State) : State :=
  beginAndExamine (setFlag .powerok { s with power := { s.power with low := false } })

/-- PWARN# is sampled (R158): the samples shift, and two that differ from the filtered state change it. -/
def samplePwarn (low : Bool) (s : State) : State :=
  let s1 := { s with power := { s.power with last := low, previous := s.power.last } }
  if s.power.low then
    if !low && !s.power.last then powerReturn s1 else s1
  else if low && s.power.last then powerEntry s1 else s1

/-- One tick (R144, R158): the counts, the expiries of this tick that are taken before the sample's effect, and the
sample. R137 lets a tick in the same instant as a strobe count or not; for an access that begins by an effect of this very
tick the model does not count it (DESIGN CHOICE, notes/assumptions/25.md). -/
def tickStep (low : Bool) (early : List Expiry) (s : State) : State :=
  let s1 := early.foldl takeExpiry (tickCounts s)
  settle s1 (samplePwarn low s1)

/-- An event inside a management frame: each is the effect of its row. -/
def takeEvent (s : State) (e : Event) : State :=
  match e with
  | .hostArrival bus => seeArrival bus s
  | .hostReturnIdle => seeReturnIdle s
  | .hostStrobesEndEarly => seeStrobesEnd s
  | .holdExpiry => takeExpiry s .hold
  | .arrayComplete ad => takeArdy ad s
  | .arrayTimeout left => takeExpiry s (.array left)
  | .tick low early => tickStep low early s
  | .ageExpiry d => takeExpiry s (.age d)

end Sys2Proof.Machine
end

