-- ==== Sys2Proof/Machine/Operands.lean ====
section
/-! DEFINITION. The layouts of the management registers (chapter 12): field codes in both directions, and the snapshot
that a read of each register returns (R174 to R176, R185, R187). -/

namespace Sys2Proof.Machine

/-! ### Field codes -/

/-- Status codes (R171). -/
def Status.code : Status → Byte
  | .ok => 0#8 | .busy => 1#8 | .range => 2#8 | .conflict => 3#8 | .state => 4#8 | .readonly => 5#8 | .noreg => 6#8

/-- Kind codes: 0 PASS, 1 STAGE, 2 DENY; 3 names no kind. -/
def WindowKind.code : WindowKind → BitVec 2
  | .pass => 0#2 | .stage => 1#2 | .deny => 2#2

/-- The kind that a code names. -/
def windowKindOf (b : BitVec 2) : Option WindowKind :=
  if b = 0#2 then some .pass else if b = 1#2 then some .stage else if b = 2#2 then some .deny else none

/-- The kind codes of HACT: 1 STAGE, 2 DENY. -/
def HashKind.code : HashKind → BitVec 2
  | .stage => 1#2 | .deny => 2#2

/-- The hash kind that a code names. -/
def hashKindOf (b : BitVec 2) : Option HashKind :=
  if b = 1#2 then some .stage else if b = 2#2 then some .deny else none

/-- The action codes of DEFACT: 0 PASS, 2 DENY. -/
def DefaultAction.code : DefaultAction → BitVec 2
  | .pass => 0#2 | .deny => 2#2

/-- The default action that a code names. -/
def defaultActionOf (b : BitVec 2) : Option DefaultAction :=
  if b = 0#2 then some .pass else if b = 2#2 then some .deny else none

/-- Age action codes: 0 NOTIFY, 1 COMMIT, 2 ABANDON; 3 names no action. -/
def AgeAction.code : AgeAction → BitVec 2
  | .notify => 0#2 | .commit => 1#2 | .abandon => 2#2

/-- The age action that a code names. -/
def ageActionOf (b : BitVec 2) : Option AgeAction :=
  if b = 0#2 then some .notify else if b = 1#2 then some .commit else if b = 2#2 then some .abandon else none

/-- Age mode bit: 0 TOTAL, 1 IDLE. -/
def AgeMode.bit : AgeMode → Bool
  | .total => false | .idle => true

/-- The age mode of a bit. -/
def ageModeOf (b : Bool) : AgeMode := if b then .idle else .total

/-- Domain state codes (DSTAT). -/
def DomState.code : DomState → BitVec 2
  | .off => 0#2 | .empty => 1#2 | .opened => 2#2 | .broken => 3#2

/-- Break cause codes (DSTAT). -/
def BreakCause.code : BreakCause → BitVec 4
  | .none => 0#4 | .ceiling => 1#4 | .storeFull => 2#4 | .hold => 3#4 | .queueFull => 4#4
  | .parity => 5#4 | .format => 6#4 | .age => 7#4 | .power => 8#4 | .clear => 9#4

/-- Drop cause codes (DROPCAUSE). -/
def DropCause.code : DropCause → Word
  | .none => 0#16 | .deny => 1#16 | .unmapped => 2#16 | .domainOff => 3#16 | .broken => 4#16
  | .power => 5#16 | .blocked => 6#16 | .format => 7#16 | .parity => 8#16

/-- ARRSRC codes. -/
def ArrSrc.code : ArrSrc → Word
  | .none => 0#16 | .host => 1#16 | .engine => 2#16

/-- JSTAT codes. -/
def DiagStatus.code : DiagStatus → Word
  | .idle => 0#16 | .pending => 1#16 | .done => 2#16 | .timeout => 3#16

/-- VIEWX source codes. -/
def ViewSource.code : ViewSource → BitVec 3
  | .none => 0#3 | .engine => 1#3
  | .domain .i0 => 4#3 | .domain .i1 => 5#3 | .domain .i2 => 6#3 | .domain .i3 => 7#3

/-- Engine state codes (ESTAT). -/
def EngineState.code : EngineState → BitVec 3
  | .recovering _ => 0#3 | .blocked _ _ => 1#3 | .idle => 2#3 | .copying _ _ => 3#3
  | .marking _ => 4#3 | .homing _ => 5#3 | .clearing => 6#3 | .faulted _ _ => 7#3

/-- Phase codes (ESTAT). -/
def Phase.code : Phase → BitVec 3
  | .copying => 1#3 | .marking => 2#3 | .homing => 3#3 | .clearing => 4#3

/-- The phase field of ESTAT (R95). -/
def EngineState.phaseCode : EngineState → BitVec 3
  | .copying _ _ => Phase.code .copying
  | .marking _ => Phase.code .marking
  | .homing _ => Phase.code .homing
  | .clearing => Phase.code .clearing
  | .faulted p _ => p.code
  | .recovering _ => 0#3
  | .blocked _ _ => 0#3
  | .idle => 0#3

/-- The record index of ESTAT (R95). -/
def EngineState.recordIndex : EngineState → Nat
  | .copying i _ => i
  | .marking k => k
  | .homing i => i
  | .faulted _ i => i
  | .clearing => 0
  | .recovering _ => 0
  | .blocked _ _ => 0
  | .idle => 0

/-- The fault cause field of ESTAT (R95): 0 NONE, 1 ARRAY, 2 CHECK. -/
def EngineState.causeCode : EngineState → BitVec 2
  | .faulted _ _ => 1#2
  | .blocked .array _ => 1#2
  | .blocked .check _ => 2#2
  | .recovering _ => 0#2
  | .idle => 0#2
  | .copying _ _ => 0#2
  | .marking _ => 0#2
  | .homing _ => 0#2
  | .clearing => 0#2

/-! ### Views -/

/-- The ESTAT principal word (R175, chapter 12). -/
def estatWord (s : State) : Word :=
  0#1 ++ BitVec.ofNat 6 s.queue.length ++ BitVec.ofBool s.engine.hold ++ s.engine.state.causeCode
    ++ s.engine.state.phaseCode ++ s.engine.state.code

/-- The DSTAT[d] principal word (R17, R175, chapter 12). -/
def dstatWord (s : State) (d : Dom) : Word :=
  let x := s.domains.get d
  0#2 ++ BitVec.ofNat 6 (queuedCount s d) ++ x.breakCause.code ++ BitVec.ofBool x.autoPending
    ++ BitVec.ofBool x.closing ++ x.state.code

/-- The remainder of an ESTAT read: the record index (R175). -/
def estatView (s : State) : Viewx := ⟨.engine, BitVec.ofNat 10 s.engine.state.recordIndex⟩

/-- The remainder of a DSTAT[d] read: the open group entry count (R175). -/
def dstatView (s : State) (d : Dom) : Viewx := ⟨.domain d, BitVec.ofNat 10 (s.domains.get d).group.length⟩

/-- The VIEWX word (chapter 12). -/
def viewxWord (v : Viewx) : Word := v.source.code ++ 0#3 ++ v.value

/-- The STRAPS word (chapter 12). -/
def strapsWord (st : Straps) : Word := 0#11 ++ BitVec.ofBool st.hpar ++ st.jsz ++ st.asz

/-- The DCTL[d] word (chapter 12). -/
def dctlWord (x : Domain) : Word :=
  0#11 ++ x.ageAction.code ++ BitVec.ofBool x.ageMode.bit ++ BitVec.ofBool x.sync ++ BitVec.ofBool x.enabled

/-- The WINBASE word of a window (chapter 12). -/
def winbaseWord (w : Window) : Word := BitVec.ofBool w.enable ++ 0#1 ++ w.kind.code ++ w.base

/-- The WINLIM word of a window (chapter 12). -/
def winlimWord (w : Window) : Word := 0#2 ++ w.domain.toBits ++ w.limit

/-- The HACT word (chapter 12). -/
def hactWord (c : Classifier) : Word := 0#10 ++ c.hashDomain.toBits ++ 0#2 ++ c.hashKind.code

/-- AGECNT[d]: the counter of a counting domain, 0 for every other (R150). -/
def agecntWord (s : State) (d : Dom) : Word := if ageCounting s d then (s.domains.get d).age else 0#16

/-- The snapshot of a register (R174): what a read of it returns. -/
def snapshot (s : State) : Reg → Word
  | .id => Config.partId
  | .straps => strapsWord s.straps
  | .flags => s.mgmt.flags.setWidth 16
  | .enables => s.mgmt.enables.setWidth 16
  | .cause => s.cause
  | .laststat => s.mgmt.laststat.code.setWidth 16
  | .viewx => viewxWord s.mgmt.viewx
  | .ecmd => 0#16
  | .estat => estatWord s
  | .free => BitVec.ofNat 16 (freeCount s)
  | .flow => if s.store.flow = .throttled then 1#16 else 0#16
  | .seq => s.engine.seq
  | .dropcause => s.host.dropcause.code
  | .arrsrc => s.port.arrsrc.code
  | .pwstat => 0#14 ++ BitVec.ofBool s.power.last ++ BitVec.ofBool s.power.low
  | .rseq => s.engine.rseq
  | .rdom => s.engine.rdom
  | .rtag => s.engine.rtag
  | .rcnt => s.engine.rcnt
  | .stalllvl => s.store.stalllvl
  | .resumelvl => s.store.resumelvl
  | .holdlim => s.host.holdlim
  | .arrto => s.port.arrto
  | .starve => s.port.starve
  | .tickdiv => s.ticks.tickdiv
  | .abortval => s.abortval
  | .agechain => 0#14 ++ BitVec.ofBool s.ticks.chain23 ++ BitVec.ofBool s.ticks.chain01
  | .hact => hactWord s.cl
  | .defact => s.cl.defact.code.setWidth 16
  | .jaddrlo => s.diag.latch
  | .jaddr => (s.diag.addr.extractLsb' 16 4).setWidth 16
  | .jdata => s.diag.data
  | .jstat => s.diag.status.code
  | .hset k => s.cl.hset.get k
  | .counter c => s.mgmt.counters.get c
  | .dctl d => dctlWord (s.domains.get d)
  | .ceil d => (s.domains.get d).ceil
  | .cclo d => (s.domains.get d).cell.setWidth 16
  | .cchi d => ((s.domains.get d).cell.extractLsb' 16 4).setWidth 16
  | .agerld d => (s.domains.get d).agerld
  | .agecnt d => agecntWord s d
  | .dstat d => dstatWord s d
  | .lasttag d => (s.domains.get d).lastTag
  | .appliedtag d => (s.domains.get d).appliedTag
  | .winbase i => winbaseWord s.cl.windows[i]
  | .winlim i => winlimWord s.cl.windows[i]

/-- The value that a read frame's completion loads VIEWX with, if its register is a wide view (R175). -/
def wideView (s : State) : Reg → Option Viewx
  | .estat => some (estatView s)
  | .dstat d => some (dstatView s d)
  | _ => none

end Sys2Proof.Machine
end

