-- ==== Sys2Proof/Machine/Registers.lean ====
section
/-! DEFINITION. Management writes: the checks and effects of each writable register (each gives a status and a state,
the state unchanged where the write is refused, R171), the engine commands of ECMD (R106), and the frame around them
(R169 to R175, R184, R186). -/

namespace Sys2Proof.Machine

/-! ### Classifier (R12, R13, R14) -/

/-- A Window Table entry takes new fields: RANGE where it would be enabled with its limit below its base, then BUSY
(R12). -/
def windowWrite (i : Fin 16) (w : Window) (s : State) : Status × State :=
  if w.enable = true ∧ w.limit < w.base then (.range, s)
  else if !quiescent s then (.busy, s)
  else (.ok, { s with cl := { s.cl with windows := s.cl.windows.set i w } })

/-- WINBASE[i] (R12, R187): enable, kind and base page. -/
def winbaseWrite (i : Fin 16) (data : Word) (s : State) : Status × State :=
  match windowKindOf (data.extractLsb' 12 2) with
  | none => (.range, s)
  | some k =>
    windowWrite i { s.cl.windows[i] with enable := data.getLsbD 15, kind := k, base := data.setWidth 12 } s

/-- WINLIM[i] (R12, R187): domain and limit page. -/
def winlimWrite (i : Fin 16) (data : Word) (s : State) : Status × State :=
  windowWrite i { s.cl.windows[i] with domain := Ix4.ofBits (data.extractLsb' 12 2), limit := data.setWidth 12 } s

/-- HSETk (R13): all sixteen positions. -/
def hsetWrite (k : Ix4) (data : Word) (s : State) : Status × State :=
  if !quiescent s then (.busy, s) else (.ok, { s with cl := { s.cl with hset := s.cl.hset.set k data } })

/-- HACT (R13, R187). -/
def hactWrite (data : Word) (s : State) : Status × State :=
  match hashKindOf (data.setWidth 2) with
  | none => (.range, s)
  | some k =>
    if !quiescent s then (.busy, s)
    else (.ok, { s with cl := { s.cl with
      hashKind := k, hashDomain := Ix4.ofBits (data.extractLsb' 4 2) } })

/-- DEFACT (R13, R187). -/
def defactWrite (data : Word) (s : State) : Status × State :=
  match defaultActionOf (data.setWidth 2) with
  | none => (.range, s)
  | some a => if !quiescent s then (.busy, s) else (.ok, { s with cl := { s.cl with defact := a } })

/-- CCLO[d] (R14): the latch. -/
def ccloWrite (d : Dom) (data : Word) (s : State) : Status × State :=
  (.ok, modDomain d (fun x => { x with cellLatch := data }) s)

/-- Whether another enabled domain has the address as its commit cell (R14, R15). -/
def cellConflict (s : State) (d : Dom) (a : Addr) : Bool :=
  Ix4.all.any (fun e => e != d && (s.domains.get e).enabled && (s.domains.get e).cell == a)

/-- The commit cell address that a CCHI[d] write forms (R14). -/
def formedCell (s : State) (d : Dom) (data : Word) : Addr := data.setWidth 4 ++ (s.domains.get d).cellLatch

/-- CCHI[d] (R14): RANGE, CONFLICT, BUSY, else the formed address becomes the commit cell. -/
def cchiWrite (d : Dom) (data : Word) (s : State) : Status × State :=
  if journalBase s.straps ≤ (formedCell s d data).toNat then (.range, s)
  else if (s.domains.get d).enabled = true ∧ cellConflict s d (formedCell s d data) = true then (.conflict, s)
  else if !quiescent s then (.busy, s)
  else (.ok, modDomain d (fun x => { x with cell := formedCell s d data }) s)

/-! ### Domains (R15, R18, R19, R20, R38, R39) -/

/-- A domain with the three options of a DCTL word (R18). -/
def Domain.withOptions (data : Word) (act : AgeAction) (x : Domain) : Domain :=
  { x with sync := data.getLsbD 1, ageMode := ageModeOf (data.getLsbD 2), ageAction := act }

/-- A domain enabled (R38). -/
def Domain.enable (x : Domain) : Domain :=
  { x with state := .empty, closing := false, autoPending := false, age := 0#16, ageDue := false }

/-- A domain disabled (R39). -/
def Domain.disable (x : Domain) : Domain :=
  { x with state := .off, closing := false, autoPending := false, age := 0#16, ageDue := false }

/-- DCTL[d] (R15, R18): RANGE; where the enable option changes STATE, CONFLICT, BUSY; else accepted. -/
def dctlWrite (d : Dom) (data : Word) (s : State) : Status × State :=
  match ageActionOf (data.extractLsb' 3 2) with
  | none => (.range, s)
  | some act =>
    let x := s.domains.get d
    let on := data.getLsbD 0
    if on = x.enabled then (.ok, modDomain d (Domain.withOptions data act) s)
    else if x.state = .opened then (.state, s)
    else if on = true ∧ cellConflict s d x.cell = true then (.conflict, s)
    else if !quiescent s then (.busy, s)
    else (.ok, modDomain d (fun y => if on then (y.withOptions data act).enable else (y.withOptions data act).disable) s)

/-- The greatest ceiling accepted (R19): 512 with the journal off, r − 1 with it on. -/
def ceilMax (st : Straps) : Nat := if journalOn st then journalRecords st - 1 else Config.storeEntries

/-- The entry count of the largest group of a domain, open or queued (R19). -/
def largestGroup (s : State) (d : Dom) : Nat :=
  ((s.queue.filter (fun g => g.domain == d)).map (fun g => g.entries.length)).foldl max (s.domains.get d).group.length

/-- CEIL[d] (R19). -/
def ceilWrite (d : Dom) (data : Word) (s : State) : Status × State :=
  if data = 0#16 ∨ ceilMax s.straps < data.toNat then (.range, s)
  else if data.toNat < largestGroup s d then (.busy, s)
  else (.ok, modDomain d (fun x => { x with ceil := data }) s)

/-- ABORTVAL (R20). -/
def abortvalWrite (data : Word) (s : State) : Status × State := (.ok, { s with abortval := data })

/-! ### Thresholds, limits, time (R49, R72, R136, R137, R144, R145, R149) -/

/-- STALLLVL (R49): the flow state is retested and a held access examined. -/
def stalllvlWrite (data : Word) (s : State) : Status × State :=
  if 255 < data.toNat ∨ s.store.resumelvl.toNat ≤ data.toNat then (.range, s)
  else (.ok, examine false (flowRetest { s with store := { s.store with stalllvl := data } }))

/-- RESUMELVL (R49). -/
def resumelvlWrite (data : Word) (s : State) : Status × State :=
  if data = 0#16 ∨ 511 < data.toNat ∨ data.toNat ≤ s.store.stalllvl.toNat then (.range, s)
  else (.ok, examine false (flowRetest { s with store := { s.store with resumelvl := data } }))

/-- HOLDLIM (R72). -/
def holdlimWrite (data : Word) (s : State) : Status × State :=
  if 255 < data.toNat then (.range, s) else (.ok, { s with host := { s.host with holdlim := data } })

/-- ARRTO (R137). -/
def arrtoWrite (data : Word) (s : State) : Status × State :=
  if 255 < data.toNat then (.range, s) else (.ok, { s with port := { s.port with arrto := data } })

/-- STARVE (R136). -/
def starveWrite (data : Word) (s : State) : Status × State :=
  if data = 0#16 ∨ 15 < data.toNat then (.range, s) else (.ok, { s with port := { s.port with starve := data } })

/-- TICKDIV (R144): the divider count starts again. -/
def tickdivWrite (data : Word) (s : State) : Status × State :=
  (.ok, { s with ticks := { s.ticks with tickdiv := data, divCount := 0 } })

/-- AGERLD[d] (R145). -/
def agerldWrite (d : Dom) (data : Word) (s : State) : Status × State :=
  if data = 0#16 ∨ 255 < data.toNat then (.range, s) else (.ok, modDomain d (fun x => { x with agerld := data }) s)

/-- Whether a domain lets its pair's chain setting change: OFF or EMPTY (R149). -/
def chainFree (s : State) (d : Dom) : Bool :=
  (s.domains.get d).state == .off || (s.domains.get d).state == .empty

/-- Whether a pair whose setting changes has a domain in OPEN or BROKEN (R149). -/
def chainBusy (s : State) (now new : Bool) (lower upper : Dom) : Bool :=
  now != new && !(chainFree s lower && chainFree s upper)

/-- AGECHAIN (R149). -/
def agechainWrite (data : Word) (s : State) : Status × State :=
  if chainBusy s s.ticks.chain01 (data.getLsbD 0) .i0 .i1 ∨ chainBusy s s.ticks.chain23 (data.getLsbD 1) .i2 .i3 then
    (.busy, s)
  else (.ok, { s with ticks := { s.ticks with chain01 := data.getLsbD 0, chain23 := data.getLsbD 1 } })

/-! ### Diagnostic read, flags, counters (R141, R178, R179, R183) -/

/-- JADDRLO (R141). -/
def jaddrloWrite (data : Word) (s : State) : Status × State :=
  (.ok, { s with diag := { s.diag with latch := data } })

/-- The address that a JADDR write forms (R141). -/
def formedDiagAddr (s : State) (data : Word) : Addr := data.setWidth 4 ++ s.diag.latch

/-- JADDR (R141): RANGE, BUSY, else JSTAT is PENDING and one array read is requested. -/
def jaddrWrite (data : Word) (s : State) : Status × State :=
  if arrayWords s.straps ≤ (formedDiagAddr s data).toNat then (.range, s)
  else if s.diag.status = .pending then (.busy, s)
  else (.ok, postRequest .mgmt (readRequest (formedDiagAddr s data))
    { s with diag := { s.diag with addr := formedDiagAddr s data, status := .pending } })

/-- FLAGS (R178). -/
def flagsWrite (data : Word) (s : State) : Status × State :=
  (.ok, { s with mgmt := { s.mgmt with flags := clearedFlags s.mgmt.flags data } })

/-- ENABLES (R179). -/
def enablesWrite (data : Word) (s : State) : Status × State :=
  (.ok, { s with mgmt := { s.mgmt with enables := data.setWidth 13 } })

/-- A counter (R183): any write clears it. -/
def counterWrite (c : CounterId) (_data : Word) (s : State) : Status × State :=
  (.ok, { s with mgmt := { s.mgmt with counters := s.mgmt.counters.set c 0#16 } })

/-! ### Engine commands (R106) -/

/-- HOLD_ON (R107). -/
def holdOnCmd (s : State) : Status × State := (.ok, { s with engine := { s.engine with hold := true } })

/-- HOLD_OFF (R107): clears HOLD, and then begins the head group where R96 allows. -/
def holdOffCmd (s : State) : Status × State :=
  if s.engine.hold then (.ok, beginAndExamine { s with engine := { s.engine with hold := false } }) else (.ok, s)

/-- Where a phase restarts (R108). -/
def Phase.restart : Phase → EngineState
  | .copying => .copying 0 0
  | .marking => .marking 1
  | .homing => .homing 0
  | .clearing => .clearing

/-- RETRY (R108). -/
def retryCmd (s : State) : Status × State :=
  match s.engine.state with
  | .faulted p _ => (.ok, enter p.restart s)
  | _ => (.state, s)

/-- The head group is discarded (R109), with every effect together, then one examination. -/
def abandonHead (s : State) : State :=
  match s.queue with
  | [] => s
  | g :: rest =>
    let s1 := flowAfterRelease (freeCount s) (setEngine .idle { s with queue := rest })
    examine false (tryBegin (grantSlots (if g.sync then completeSync s1 else s1)))

/-- ABANDON_HEAD (R106, R109). -/
def abandonHeadCmd (s : State) : Status × State :=
  match s.engine.state with
  | .faulted .copying _ => (.ok, abandonHead s)
  | _ => (.state, s)

/-- The commit held for a slot, at STAGE_CLEAR: a commit to BROKEN (R35, R110). -/
def consumeHeldCommit (s : State) : State :=
  match heldFor s with
  | some (.queueSlot d _) => commitToBroken d s
  | _ => s

/-- The records that STAGE_CLEAR keeps: a head in flight or faulted (R111). -/
def keptRecords (s : State) : List GroupRecord := if s.engine.state.inFlight then s.queue.take 1 else []

/-- The records that STAGE_CLEAR discards (R111). -/
def discardedRecords (s : State) : List GroupRecord := if s.engine.state.inFlight then s.queue.drop 1 else s.queue

/-- STAGE_CLEAR's effect (R110, R111): the breaks, the held commit, the discards, one release with one flow test, one
examination. -/
def stageClear (s : State) : State :=
  let s1 := consumeHeldCommit (breakAll .clear s)
  let s2 := { s1 with queue := keptRecords s }
  let s3 := if (discardedRecords s).any (fun g => g.sync) then completeSync s2 else s2
  examine false (flowAfterRelease (freeCount s) s3)

/-- STAGE_CLEAR (R106, R110). -/
def stageClearCmd (s : State) : Status × State :=
  match s.engine.state with
  | .recovering _ => (.state, s)
  | .blocked _ _ => (.state, s)
  | .idle => (.ok, stageClear s)
  | .copying _ _ => (.ok, stageClear s)
  | .marking _ => (.ok, stageClear s)
  | .homing _ => (.ok, stageClear s)
  | .clearing => (.ok, stageClear s)
  | .faulted _ _ => (.ok, stageClear s)

/-- RECOVER_RETRY (R128, R130). -/
def recoverRetryCmd (s : State) : Status × State :=
  match s.engine.state with
  | .blocked _ discarding => if discarding then (.busy, s) else (.ok, startRecovery s)
  | _ => (.state, s)

/-- JOURNAL_DISCARD (R129, R130). -/
def journalDiscardCmd (s : State) : Status × State :=
  match s.engine.state with
  | .blocked c discarding => if discarding then (.busy, s) else (.ok, goOn (.blocked c true) s)
  | _ => (.state, s)

/-- ECMD (R106, chapter 12 "ECMD codes"): a code that names no command is refused with RANGE. -/
def ecmdWrite (code : Word) (s : State) : Status × State :=
  match code.toNat with
  | 1 => holdOnCmd s
  | 2 => holdOffCmd s
  | 3 => retryCmd s
  | 4 => abandonHeadCmd s
  | 5 => stageClearCmd s
  | 6 => recoverRetryCmd s
  | 7 => journalDiscardCmd s
  | _ => (.range, s)

/-! ### Frames -/

/-- The status and effect of a write to a register (R170, R171): READONLY for a read-only one, else its own rule. -/
def writeReg (r : Reg) (data : Word) (s : State) : Status × State :=
  match r with
  | .flags => flagsWrite data s
  | .enables => enablesWrite data s
  | .ecmd => ecmdWrite data s
  | .stalllvl => stalllvlWrite data s
  | .resumelvl => resumelvlWrite data s
  | .holdlim => holdlimWrite data s
  | .arrto => arrtoWrite data s
  | .starve => starveWrite data s
  | .tickdiv => tickdivWrite data s
  | .abortval => abortvalWrite data s
  | .agechain => agechainWrite data s
  | .hact => hactWrite data s
  | .defact => defactWrite data s
  | .jaddrlo => jaddrloWrite data s
  | .jaddr => jaddrWrite data s
  | .hset k => hsetWrite k data s
  | .counter c => counterWrite c data s
  | .dctl d => dctlWrite d data s
  | .ceil d => ceilWrite d data s
  | .cclo d => ccloWrite d data s
  | .cchi d => cchiWrite d data s
  | .agerld d => agerldWrite d data s
  | .winbase i => winbaseWrite i data s
  | .winlim i => winlimWrite i data s
  | .id => (.readonly, s)
  | .straps => (.readonly, s)
  | .cause => (.readonly, s)
  | .laststat => (.readonly, s)
  | .viewx => (.readonly, s)
  | .estat => (.readonly, s)
  | .free => (.readonly, s)
  | .flow => (.readonly, s)
  | .seq => (.readonly, s)
  | .dropcause => (.readonly, s)
  | .arrsrc => (.readonly, s)
  | .pwstat => (.readonly, s)
  | .rseq => (.readonly, s)
  | .rdom => (.readonly, s)
  | .rtag => (.readonly, s)
  | .rcnt => (.readonly, s)
  | .jdata => (.readonly, s)
  | .jstat => (.readonly, s)
  | .agecnt _ => (.readonly, s)
  | .dstat _ => (.readonly, s)
  | .lasttag _ => (.readonly, s)
  | .appliedtag _ => (.readonly, s)

/-- The state at the end of byte 2, after the events that come while bytes 1 and 2 are shifted (R170, R174). -/
def afterInside (inside : List Event) (s : State) : State := inside.foldl takeEvent s

/-- MSS#, held asserted since a reset, is deasserted at the end of the clocks under it: the next frame is recognised
(R184). -/
def releaseMss (s : State) : State := { s with mgmt := { s.mgmt with mssHeld := false } }

/-- What MSO carries in a complete frame that begins in `s` and returns a word (R169, R173): the last status as it stands
when the frame begins, then the word. -/
def carried (s : State) (w : Word) : Mso := ⟨s.mgmt.lastStatus.code, w, 24⟩

/-- The end of a complete write frame (R169, R172, R173): the last status and LASTSTAT take its status; MSO has carried
`out`. -/
def endWriteFrame (out : Mso) (r : Status × State) : State :=
  { r.2 with mgmt := { r.2.mgmt with lastStatus := r.1, laststat := r.1, mso := out } }

/-- A complete write frame is acted on at the end of byte 2 by an effect (R170). -/
def actWrite (out : Mso) (effect : State → Status × State) (t : State) : State := settle t (endWriteFrame out (effect t))

/-- A complete write frame that returns a word and is acted on by an effect. The word is of the end of byte 0, the effect of
the end of byte 2 (R169, R170, R174). Under an MSS# held since a reset it is no frame, and its events alone happen
(R184). -/
def frameReturning (word : State → Word) (effect : State → Status × State) (inside : List Event) (s : State) : State :=
  let t := afterInside inside s
  if s.mgmt.mssHeld then releaseMss t else actWrite (carried s (word s)) effect t

/-- A complete write frame to a register, acted on by an effect (R170). -/
def frameWith (r : Reg) (effect : State → Status × State) (inside : List Event) (s : State) : State :=
  frameReturning (fun u => snapshot u r) effect inside s

/-- The word that a frame to an index returns, as of the end of byte 0: the register's snapshot, 0x0000 where the index
names no register (R169, R174, R186). -/
def indexWord (index : BitVec 7) (s : State) : Word :=
  match regAt index with
  | some r => snapshot s r
  | none => 0#16

/-- The status and effect of a write to an index: NOREG where it names no register, else the register's rule (R171, R186). -/
def indexEffect (index : BitVec 7) (data : Word) (s : State) : Status × State :=
  match regAt index with
  | some r => writeReg r data s
  | none => (.noreg, s)

/-- A complete write frame to an index (R170, R186). -/
def indexWriteFrame (index : BitVec 7) (data : Word) (inside : List Event) (s : State) : State :=
  frameReturning (indexWord index) (indexEffect index data) inside s

/-- The status of a read of an index (R171). -/
def readStatus (index : BitVec 7) : Status := if (regAt index).isSome then .ok else .noreg

/-- The remainder that a read of an index takes with its snapshot, where the register is a wide view (R175). -/
def indexView (index : BitVec 7) (s : State) : Option Viewx := (regAt index).bind (wideView s)

/-- A complete read frame of an index ends (R170, R172, R175): the last status alone changes, VIEWX is loaded by a wide
view, MSO has carried `out`. -/
def actRead (index : BitVec 7) (out : Mso) (view : Option Viewx) (t : State) : State :=
  { t with mgmt := { t.mgmt with lastStatus := readStatus index, viewx := view.getD t.mgmt.viewx, mso := out } }

/-- A complete read frame of an index (R171, R174, R175, R186): the snapshot and the remainder are of the end of byte 0,
VIEWX is loaded at the end of byte 2. Under an MSS# held since a reset it is no frame (R184). -/
def indexReadFrame (index : BitVec 7) (inside : List Event) (s : State) : State :=
  let t := afterInside inside s
  if s.mgmt.mssHeld then releaseMss t else actRead index (carried s (indexWord index s)) (indexView index s) t

end Sys2Proof.Machine
end

