-- ==== Sys2Proof/Machine/ArrayEvents.lean ====
section
/-! DEFINITION. The events of the array port: completion (R133) and timeout (R137). -/

namespace Sys2Proof.Machine

/-- ARRAY_ACCESS_COMPLETE: ARDY completes the access in progress; seen at an idle port it has no effect (R133). -/
def execArrayAccessComplete (ad : Option Word) (s : State) : Host.Outcome State Fault Refusal := .next (takeArdy ad s)

/-- ARRAY_TIMEOUT: the timeout that a tick has made due, if any (R137). -/
def execArrayTimeout (left : Option Word) (s : State) : Host.Outcome State Fault Refusal :=
  .next (takeExpiry s (.array left))

end Sys2Proof.Machine
end

