-- ==== Sys2Proof/Machine/Commands.lean ====
section
/-! DEFINITION. The seven engine commands, each a write frame to ECMD (R106 to R111, R128, R129). -/

namespace Sys2Proof.Machine

/-- HOLD_ON (R107). -/
def execHoldOn (s : State) (inside : List Event := []) : Host.Outcome State Fault Refusal :=
  .next (frameWith .ecmd holdOnCmd inside s)

/-- HOLD_OFF (R107). -/
def execHoldOff (s : State) (inside : List Event := []) : Host.Outcome State Fault Refusal :=
  .next (frameWith .ecmd holdOffCmd inside s)

/-- RETRY (R108). -/
def execRetry (s : State) (inside : List Event := []) : Host.Outcome State Fault Refusal :=
  .next (frameWith .ecmd retryCmd inside s)

/-- ABANDON_HEAD (R109). -/
def execAbandonHead (s : State) (inside : List Event := []) : Host.Outcome State Fault Refusal :=
  .next (frameWith .ecmd abandonHeadCmd inside s)

/-- STAGE_CLEAR (R110, R111). -/
def execStageClear (s : State) (inside : List Event := []) : Host.Outcome State Fault Refusal :=
  .next (frameWith .ecmd stageClearCmd inside s)

/-- RECOVER_RETRY (R128). -/
def execRecoverRetry (s : State) (inside : List Event := []) : Host.Outcome State Fault Refusal :=
  .next (frameWith .ecmd recoverRetryCmd inside s)

/-- JOURNAL_DISCARD (R129). -/
def execJournalDiscard (s : State) (inside : List Event := []) : Host.Outcome State Fault Refusal :=
  .next (frameWith .ecmd journalDiscardCmd inside s)

end Sys2Proof.Machine
end

