-- ==== Sys2Proof/Machine/ConfigWrites.lean ====
section
/-! DEFINITION. The writes of configuration registers: the classifier (R12 to R14), the domains (R15, R18 to R20), the
thresholds and limits (R49, R72, R136, R137), time (R144, R145, R149) and the diagnostic read (R141). -/

namespace Sys2Proof.Machine

/-- WINBASE_WRITE (R12). -/
def execWinbaseWrite (i : Fin 16) (data : Word) (s : State) (inside : List Event := []) :
    Host.Outcome State Fault Refusal :=
  .next (frameWith (.winbase i) (winbaseWrite i data) inside s)

/-- WINLIM_WRITE (R12). -/
def execWinlimWrite (i : Fin 16) (data : Word) (s : State) (inside : List Event := []) :
    Host.Outcome State Fault Refusal :=
  .next (frameWith (.winlim i) (winlimWrite i data) inside s)

/-- HSET_WRITE (R13). -/
def execHsetWrite (k : Ix4) (data : Word) (s : State) (inside : List Event := []) : Host.Outcome State Fault Refusal :=
  .next (frameWith (.hset k) (hsetWrite k data) inside s)

/-- HACT_WRITE (R13). -/
def execHactWrite (data : Word) (s : State) (inside : List Event := []) : Host.Outcome State Fault Refusal :=
  .next (frameWith .hact (hactWrite data) inside s)

/-- DEFACT_WRITE (R13). -/
def execDefactWrite (data : Word) (s : State) (inside : List Event := []) : Host.Outcome State Fault Refusal :=
  .next (frameWith .defact (defactWrite data) inside s)

/-- CCLO_WRITE (R14). -/
def execCcloWrite (d : Dom) (data : Word) (s : State) (inside : List Event := []) : Host.Outcome State Fault Refusal :=
  .next (frameWith (.cclo d) (ccloWrite d data) inside s)

/-- CCHI_WRITE (R14). -/
def execCchiWrite (d : Dom) (data : Word) (s : State) (inside : List Event := []) : Host.Outcome State Fault Refusal :=
  .next (frameWith (.cchi d) (cchiWrite d data) inside s)

/-- The DCTL word with its enable bit set or clear and the other bits of the data. -/
def dctlData (on : Bool) (data : Word) : Word := if on then data ||| 1#16 else data &&& 0xFFFE#16

/-- DOMAIN_ENABLE: a DCTL[d] write whose enable bit is 1 (R15, R38). -/
def execDomainEnable (d : Dom) (data : Word) (s : State) (inside : List Event := []) :
    Host.Outcome State Fault Refusal :=
  .next (frameWith (.dctl d) (dctlWrite d (dctlData true data)) inside s)

/-- DOMAIN_DISABLE: a DCTL[d] write whose enable bit is 0 (R15, R39). -/
def execDomainDisable (d : Dom) (data : Word) (s : State) (inside : List Event := []) :
    Host.Outcome State Fault Refusal :=
  .next (frameWith (.dctl d) (dctlWrite d (dctlData false data)) inside s)

/-- DCTL_OPTIONS_WRITE: a DCTL[d] write that repeats the enable option (R18). -/
def execDctlOptionsWrite (d : Dom) (data : Word) (s : State) (inside : List Event := []) :
    Host.Outcome State Fault Refusal :=
  .next (frameWith (.dctl d) (fun t => dctlWrite d (dctlData (t.domains.get d).enabled data) t) inside s)

/-- CEIL_WRITE (R19). -/
def execCeilWrite (d : Dom) (data : Word) (s : State) (inside : List Event := []) : Host.Outcome State Fault Refusal :=
  .next (frameWith (.ceil d) (ceilWrite d data) inside s)

/-- ABORTVAL_WRITE (R20). -/
def execAbortvalWrite (data : Word) (s : State) (inside : List Event := []) : Host.Outcome State Fault Refusal :=
  .next (frameWith .abortval (abortvalWrite data) inside s)

/-- STALLLVL_WRITE (R49). -/
def execStalllvlWrite (data : Word) (s : State) (inside : List Event := []) : Host.Outcome State Fault Refusal :=
  .next (frameWith .stalllvl (stalllvlWrite data) inside s)

/-- RESUMELVL_WRITE (R49). -/
def execResumelvlWrite (data : Word) (s : State) (inside : List Event := []) : Host.Outcome State Fault Refusal :=
  .next (frameWith .resumelvl (resumelvlWrite data) inside s)

/-- HOLDLIM_WRITE (R72). -/
def execHoldlimWrite (data : Word) (s : State) (inside : List Event := []) : Host.Outcome State Fault Refusal :=
  .next (frameWith .holdlim (holdlimWrite data) inside s)

/-- ARRTO_WRITE (R137). -/
def execArrtoWrite (data : Word) (s : State) (inside : List Event := []) : Host.Outcome State Fault Refusal :=
  .next (frameWith .arrto (arrtoWrite data) inside s)

/-- STARVE_WRITE (R136). -/
def execStarveWrite (data : Word) (s : State) (inside : List Event := []) : Host.Outcome State Fault Refusal :=
  .next (frameWith .starve (starveWrite data) inside s)

/-- TICKDIV_WRITE (R144). -/
def execTickdivWrite (data : Word) (s : State) (inside : List Event := []) : Host.Outcome State Fault Refusal :=
  .next (frameWith .tickdiv (tickdivWrite data) inside s)

/-- AGERLD_WRITE (R145). -/
def execAgerldWrite (d : Dom) (data : Word) (s : State) (inside : List Event := []) :
    Host.Outcome State Fault Refusal :=
  .next (frameWith (.agerld d) (agerldWrite d data) inside s)

/-- AGECHAIN_WRITE (R149). -/
def execAgechainWrite (data : Word) (s : State) (inside : List Event := []) : Host.Outcome State Fault Refusal :=
  .next (frameWith .agechain (agechainWrite data) inside s)

/-- JADDRLO_WRITE (R141). -/
def execJaddrloWrite (data : Word) (s : State) (inside : List Event := []) : Host.Outcome State Fault Refusal :=
  .next (frameWith .jaddrlo (jaddrloWrite data) inside s)

/-- JADDR_WRITE (R141). -/
def execJaddrWrite (data : Word) (s : State) (inside : List Event := []) : Host.Outcome State Fault Refusal :=
  .next (frameWith .jaddr (jaddrWrite data) inside s)

end Sys2Proof.Machine
end

