-- ==== Sys2Proof/Machine/Serial.lean ====
section
/-! DEFINITION. The four wires of the management port (R169, R170, R173, R174, R184): what each edge of MSS# and MSCK does,
and the level that MSO shows. A frame in progress stands beside the state, in a `Line`: the commands are whole frames, so no
frame is in progress between two of them (notes/assumptions/14.md). -/

namespace Sys2Proof.Machine

/-- The level of MSO in a frame after a number of falling edges of MSCK (R169): the status byte and the snapshot, most
significant bit first, the first bit from the assertion of MSS# on; low for the clocks after byte 2. -/
def Mso.level (out : Mso) (falls : Nat) : Bool := (out.status ++ out.data : BitVec 24).getMsbD falls

/-- A frame being shifted (R169, R173, R174): the last status as it stood when the frame began, the snapshot with the
remainder of a wide view (0 and none until the end of byte 0), the bits of MSI sampled so far, and the edges of MSCK seen. -/
structure Shift where
  status : Byte
  data   : Word
  view   : Option Viewx
  msi    : BitVec 24
  rises  : Nat
  falls  : Nat
deriving DecidableEq, Repr

/-- What a frame has carried on MSO so far. -/
def Shift.out (f : Shift) : Mso := ⟨f.status, f.data, f.rises⟩

/-- The port on its wires: MSS# is deasserted and a frame is waited for; MSS# has stood asserted since a reset and is not
seen deasserted yet (R184); or a frame has begun under it. -/
inductive Select
  | waiting
  | held
  | selected (f : Shift)
deriving DecidableEq, Repr

/-- The state of the part with its management wires. -/
structure Line where
  state  : State
  select : Select
deriving DecidableEq, Repr

/-- The wires between two commands. -/
def Line.ofState (s : State) : Line := ⟨s, if s.mgmt.mssHeld then .held else .waiting⟩

/-- What MSO drives (R169): nothing while MSS# is deasserted, the frame's level while it shifts. An MSS# held since a reset
makes no frame (R184), so nothing is driven under it either (notes/assumptions/14.md). -/
def Line.mso (l : Line) : Option Bool :=
  match l.select with
  | .waiting => none
  | .held => none
  | .selected f => some (f.out.level f.falls)

/-- MSS# is asserted: a frame begins, with the last status of that moment (R169, R173). -/
def Line.assertMss (l : Line) : Line :=
  match l.select with
  | .waiting => { l with select := .selected ⟨l.state.mgmt.lastStatus.code, 0#16, none, 0#24, 0, 0⟩ }
  | _ => l

/-- The end of byte 0: the snapshot of the register that the command byte names is taken, and of a read the remainder of a
wide view with it (R174, R175). -/
def Shift.takeSnapshot (s : State) (f : Shift) : Shift :=
  let index : BitVec 7 := f.msi.setWidth 7
  { f with data := indexWord index s, view := if f.msi.getLsbD 7 then indexView index s else none }

/-- The end of byte 2: the frame is acted on (R170). Byte 0 stands in bits 23..16 of what MSI gave. -/
def Shift.act (f : Shift) (t : State) : State :=
  let index : BitVec 7 := f.msi.extractLsb' 16 7
  if f.msi.getLsbD 23 then actRead index f.out f.view t
  else actWrite f.out (indexEffect index (f.msi.setWidth 16)) t

/-- A rising edge of MSCK: MSI is sampled (R169). Clocks after byte 2 are ignored. -/
def Line.rise (msi : Bool) (l : Line) : Line :=
  match l.select with
  | .selected f =>
    if 24 ≤ f.rises then l
    else
      let g := { f with msi := f.msi.shiftConcat msi, rises := f.rises + 1 }
      if g.rises = 8 then { l with select := .selected (g.takeSnapshot l.state) }
      else if g.rises = 24 then ⟨g.act l.state, .selected g⟩
      else { l with select := .selected g }
  | _ => l

/-- A falling edge of MSCK: MSO goes on to its next bit (R169). -/
def Line.fall (l : Line) : Line :=
  match l.select with
  | .selected f => { l with select := .selected { f with falls := f.falls + 1 } }
  | _ => l

/-- MSS# is deasserted. A frame before the end of byte 2 is incomplete: it is not acted on, and all that stays of it is what
MSO has carried (R170, R173). Under an MSS# held since a reset the port waits for a frame from now on (R184). -/
def Line.deassertMss (l : Line) : Line :=
  match l.select with
  | .waiting => l
  | .held => ⟨releaseMss l.state, .waiting⟩
  | .selected f =>
    ⟨if f.rises < 24 then { l.state with mgmt := { l.state.mgmt with mso := f.out } } else l.state, .waiting⟩

/-- Another event of the part comes at this place of the wires' edges. -/
def Line.event (l : Line) (e : Event) : Line := { l with state := takeEvent l.state e }

/-- The `n` clocks of a frame from clock `start` on (the first is 0), the bits of MSI those of a frame of three bytes, most significant first. -/
def Line.clocks (frame : BitVec 24) (start n : Nat) (l : Line) : Line :=
  (List.range' start n).foldl (fun m k => (m.rise (frame.getMsbD k)).fall) l

/-- The edges of a whole frame, with the events that come between its byte 0 and the end of its byte 2. -/
def Line.wholeFrame (frame : BitVec 24) (inside : List Event) (l : Line) : Line :=
  (Line.clocks frame 8 16 (inside.foldl Line.event (Line.clocks frame 0 8 l.assertMss))).deassertMss

/-- The edges of a frame that is cut after some clocks. -/
def Line.cutFrame (frame : BitVec 24) (n : Nat) (l : Line) : Line := (Line.clocks frame 0 n l.assertMss).deassertMss

end Sys2Proof.Machine
end

