-- ==== Sys2Proof/Machine/Frames.lean ====
section
/-! DEFINITION. Management frames: incomplete frames (R170), read frames (R175), write frames by index (R186), unnamed
command codes (R106), and the writes of FLAGS, ENABLES and the counters (R178, R179, R183). -/

namespace Sys2Proof.Machine

/-- INCOMPLETE_FRAME: the edges of a frame that is cut. It has no effect (R170): MSO has carried the last status and what
was shifted of the snapshot (R173), and an MSS# held since a reset ends (R184). -/
def execIncompleteFrame (s : State) (frame : BitVec 24 := 0#24) (clocks : Fin 24 := 0) :
    Host.Outcome State Fault Refusal :=
  .next ((Line.ofState s).cutFrame frame clocks.val).state

/-- VIEW_READ: a complete read frame; of ESTAT or DSTAT[d] it loads VIEWX (R175). -/
def execViewRead (index : BitVec 7) (s : State) (inside : List Event := []) : Host.Outcome State Fault Refusal :=
  .next (indexReadFrame index inside s)

/-- REGISTER_WRITE: a complete write frame; at an unused index NOREG, at a read-only register READONLY (R186). -/
def execRegisterWrite (index : BitVec 7) (data : Word) (s : State) (inside : List Event := []) :
    Host.Outcome State Fault Refusal :=
  .next (indexWriteFrame index data inside s)

/-- UNNAMED_ECMD_CODE: a write frame to ECMD (R106). -/
def execUnnamedEcmdCode (code : Word) (s : State) (inside : List Event := []) : Host.Outcome State Fault Refusal :=
  .next (frameWith .ecmd (ecmdWrite code) inside s)

/-- FLAGS_WRITE (R178). -/
def execFlagsWrite (data : Word) (s : State) (inside : List Event := []) : Host.Outcome State Fault Refusal :=
  .next (frameWith .flags (flagsWrite data) inside s)

/-- ENABLES_WRITE (R179). -/
def execEnablesWrite (data : Word) (s : State) (inside : List Event := []) : Host.Outcome State Fault Refusal :=
  .next (frameWith .enables (enablesWrite data) inside s)

/-- COUNTER_CLEAR (R183). -/
def execCounterClear (c : CounterId) (data : Word) (s : State) (inside : List Event := []) :
    Host.Outcome State Fault Refusal :=
  .next (frameWith (.counter c) (counterWrite c data) inside s)

end Sys2Proof.Machine
end

