-- ==== Sys2Proof/Machine/HostEvents.lean ====
section
/-! DEFINITION. The host-side events: arrival (R62), return to IDLE (R62), strobes ended early (R65), hold-limit expiry
(R73). -/

namespace Sys2Proof.Machine

/-- HOST_ACCESS_ARRIVAL (R62, R65). -/
def execHostAccessArrival (bus : HostBus) (s : State) : Host.Outcome State Fault Refusal := .next (seeArrival bus s)

/-- HOST_PORT_RETURN_IDLE (R62). -/
def execHostPortReturnIdle (s : State) : Host.Outcome State Fault Refusal := .next (seeReturnIdle s)

/-- HOST_STROBES_END_EARLY (R65). -/
def execHostStrobesEndEarly (s : State) : Host.Outcome State Fault Refusal := .next (seeStrobesEnd s)

/-- HOLD_LIMIT_EXPIRY: the expiry that a tick has made due, if any (R73). -/
def execHoldLimitExpiry (s : State) : Host.Outcome State Fault Refusal := .next (takeExpiry s .hold)

end Sys2Proof.Machine
end

