-- ==== Sys2Proof/Machine/TimeEvents.lean ====
section
/-! DEFINITION. The events of time and of reset: a tick (R144), an age expiry (R151), a reset (R1). -/

namespace Sys2Proof.Machine

/-- TICK (R144, R158). -/
def execTick (low : Bool) (early : List Expiry) (s : State) : Host.Outcome State Fault Refusal :=
  .next (tickStep low early s)

/-- AGE_EXPIRY: the expiry of domain d that a tick has made due, if any (R151). -/
def execAgeExpiry (d : Dom) (s : State) : Host.Outcome State Fault Refusal := .next (takeExpiry s (.age d))

/-- RESET: every block at its reset value under the sampled straps; the array keeps its contents, less what an
interrupted write made of its word (R143); a frame is recognised once MSS# is seen deasserted (R184); with the journal
on the engine requests the read of journal word 0 (R119). -/
def execReset (st : Straps) (left : Option Word) (s : State) (mssHeld : Bool := false) :
    Host.Outcome State Fault Refusal :=
  .next (requestEngine (State.cold st mssHeld (interrupted left s) s.pending))

end Sys2Proof.Machine
end

