-- ==== Sys2Proof/Machine/Dispatch.lean ====
section
/-! DEFINITION. The dispatch of commands to their meanings: one arm per constructor of Instr. -/

namespace Sys2Proof.Machine

def exec (i : Instr) (s : State) : Host.Outcome State Fault Refusal :=
  match i with
  | .hostAccessArrival bus => Sys2Proof.Machine.execHostAccessArrival bus s
  | .hostPortReturnIdle => Sys2Proof.Machine.execHostPortReturnIdle s
  | .holdLimitExpiry => Sys2Proof.Machine.execHoldLimitExpiry s
  | .arrayAccessComplete ad => Sys2Proof.Machine.execArrayAccessComplete ad s
  | .arrayTimeout left => Sys2Proof.Machine.execArrayTimeout left s
  | .tick pwarnLow early => Sys2Proof.Machine.execTick pwarnLow early s
  | .ageExpiry d => Sys2Proof.Machine.execAgeExpiry d s
  | .reset straps left mssHeld => Sys2Proof.Machine.execReset straps left s mssHeld
  | .incompleteFrame frame clocks => Sys2Proof.Machine.execIncompleteFrame s frame clocks
  | .viewRead index inside => Sys2Proof.Machine.execViewRead index s inside
  | .registerWrite index data inside => Sys2Proof.Machine.execRegisterWrite index data s inside
  | .holdOn inside => Sys2Proof.Machine.execHoldOn s inside
  | .holdOff inside => Sys2Proof.Machine.execHoldOff s inside
  | .retry inside => Sys2Proof.Machine.execRetry s inside
  | .abandonHead inside => Sys2Proof.Machine.execAbandonHead s inside
  | .stageClear inside => Sys2Proof.Machine.execStageClear s inside
  | .recoverRetry inside => Sys2Proof.Machine.execRecoverRetry s inside
  | .journalDiscard inside => Sys2Proof.Machine.execJournalDiscard s inside
  | .winbaseWrite n data inside => Sys2Proof.Machine.execWinbaseWrite n data s inside
  | .winlimWrite n data inside => Sys2Proof.Machine.execWinlimWrite n data s inside
  | .hsetWrite k data inside => Sys2Proof.Machine.execHsetWrite k data s inside
  | .hactWrite data inside => Sys2Proof.Machine.execHactWrite data s inside
  | .defactWrite data inside => Sys2Proof.Machine.execDefactWrite data s inside
  | .ccloWrite d data inside => Sys2Proof.Machine.execCcloWrite d data s inside
  | .cchiWrite d data inside => Sys2Proof.Machine.execCchiWrite d data s inside
  | .domainEnable d data inside => Sys2Proof.Machine.execDomainEnable d data s inside
  | .domainDisable d data inside => Sys2Proof.Machine.execDomainDisable d data s inside
  | .dctlOptionsWrite d data inside => Sys2Proof.Machine.execDctlOptionsWrite d data s inside
  | .ceilWrite d data inside => Sys2Proof.Machine.execCeilWrite d data s inside
  | .abortvalWrite data inside => Sys2Proof.Machine.execAbortvalWrite data s inside
  | .stalllvlWrite data inside => Sys2Proof.Machine.execStalllvlWrite data s inside
  | .resumelvlWrite data inside => Sys2Proof.Machine.execResumelvlWrite data s inside
  | .holdlimWrite data inside => Sys2Proof.Machine.execHoldlimWrite data s inside
  | .arrtoWrite data inside => Sys2Proof.Machine.execArrtoWrite data s inside
  | .starveWrite data inside => Sys2Proof.Machine.execStarveWrite data s inside
  | .tickdivWrite data inside => Sys2Proof.Machine.execTickdivWrite data s inside
  | .agerldWrite d data inside => Sys2Proof.Machine.execAgerldWrite d data s inside
  | .agechainWrite data inside => Sys2Proof.Machine.execAgechainWrite data s inside
  | .jaddrloWrite data inside => Sys2Proof.Machine.execJaddrloWrite data s inside
  | .jaddrWrite data inside => Sys2Proof.Machine.execJaddrWrite data s inside
  | .flagsWrite data inside => Sys2Proof.Machine.execFlagsWrite data s inside
  | .enablesWrite data inside => Sys2Proof.Machine.execEnablesWrite data s inside
  | .counterClear c data inside => Sys2Proof.Machine.execCounterClear c data s inside
  | .hostStrobesEndEarly => Sys2Proof.Machine.execHostStrobesEndEarly s
  | .unnamedEcmdCode code inside => Sys2Proof.Machine.execUnnamedEcmdCode code s inside

end Sys2Proof.Machine
end

