-- ==== Sys2Proof/Safety.lean ====
section
/-! DEFINITION. What the statements speak of: the invariants of the block, each a predicate on one state with the rules
it comes from, the reset values and reserved bits of the register map (chapter 12), and the record that a complete
management frame leaves. -/

namespace Sys2Proof

/-! ### The register map -/

/-- What each register reads right after a reset (chapter 12, register index map, column "Reset"). -/
def Reg.resetValue (st : Straps) : Reg → Word
  | .id => 0x7140#16
  | .straps => 0#11 ++ BitVec.ofBool st.hpar ++ st.jsz ++ st.asz
  | .cause => 0x00FF#16
  | .estat => if st.jsz = 0#2 then 0x0002#16 else 0x0000#16
  | .free => 0x0200#16
  | .stalllvl => 0x0010#16
  | .resumelvl => 0x0030#16
  | .holdlim => 0x00C8#16
  | .arrto => 0x0032#16
  | .starve => 0x0004#16
  | .tickdiv => 0x03E7#16
  | .abortval => 0xFFFF#16
  | .hact => 0x0002#16
  | .ceil _ => 0x0040#16
  | .agerld _ => 0x00FF#16
  | _ => 0x0000#16

/-- The reserved bits of each register (chapter 12, field layouts; R187): those its layout leaves unnamed. -/
def Reg.reservedBits : Reg → Word
  | .straps => 0xFFE0#16
  | .flags => 0xE000#16
  | .enables => 0xE000#16
  | .laststat => 0xFF00#16
  | .viewx => 0x1C00#16
  | .estat => 0x8000#16
  | .flow => 0xFFFE#16
  | .dropcause => 0xFFF0#16
  | .arrsrc => 0xFFFC#16
  | .pwstat => 0xFFFC#16
  | .rdom => 0xFFFC#16
  | .agechain => 0xFFFC#16
  | .hact => 0xFFCC#16
  | .defact => 0xFFFC#16
  | .jaddr => 0xFFF0#16
  | .jstat => 0xFFFC#16
  | .dctl _ => 0xFFE0#16
  | .cchi _ => 0xFFF0#16
  | .dstat _ => 0xC000#16
  | .winbase _ => 0x4000#16
  | .winlim _ => 0xC000#16
  | _ => 0x0000#16

/-- The row of the table that a write of a register is, where the register is writable; `inside` are the events that come
within its frame. -/
def Reg.writeRow (enabled : Dom → Bool) (data : Word) (inside : List Event) : Reg → Option Instr
  | .flags => some (.flagsWrite data inside)
  | .enables => some (.enablesWrite data inside)
  | .ecmd =>
    some (if data = 1#16 then .holdOn inside else if data = 2#16 then .holdOff inside
      else if data = 3#16 then .retry inside else if data = 4#16 then .abandonHead inside
      else if data = 5#16 then .stageClear inside
      else if data = 6#16 then .recoverRetry inside else if data = 7#16 then .journalDiscard inside
      else .unnamedEcmdCode data inside)
  | .stalllvl => some (.stalllvlWrite data inside)
  | .resumelvl => some (.resumelvlWrite data inside)
  | .holdlim => some (.holdlimWrite data inside)
  | .arrto => some (.arrtoWrite data inside)
  | .starve => some (.starveWrite data inside)
  | .tickdiv => some (.tickdivWrite data inside)
  | .abortval => some (.abortvalWrite data inside)
  | .agechain => some (.agechainWrite data inside)
  | .hact => some (.hactWrite data inside)
  | .defact => some (.defactWrite data inside)
  | .jaddrlo => some (.jaddrloWrite data inside)
  | .jaddr => some (.jaddrWrite data inside)
  | .hset k => some (.hsetWrite k data inside)
  | .counter c => some (.counterClear c data inside)
  | .dctl d =>
    some (if data.getLsbD 0 = enabled d then .dctlOptionsWrite d data inside
      else if data.getLsbD 0 then .domainEnable d data inside else .domainDisable d data inside)
  | .ceil d => some (.ceilWrite d data inside)
  | .cclo d => some (.ccloWrite d data inside)
  | .cchi d => some (.cchiWrite d data inside)
  | .agerld d => some (.agerldWrite d data inside)
  | .winbase i => some (.winbaseWrite i data inside)
  | .winlim i => some (.winlimWrite i data inside)
  | _ => none

/-- The row of the table that an event inside a frame is. -/
def Event.row : Event → Instr
  | .hostArrival bus => .hostAccessArrival bus
  | .hostReturnIdle => .hostPortReturnIdle
  | .hostStrobesEndEarly => .hostStrobesEndEarly
  | .holdExpiry => .holdLimitExpiry
  | .arrayComplete ad => .arrayAccessComplete ad
  | .arrayTimeout left => .arrayTimeout left
  | .tick low early => .tick low early
  | .ageExpiry d => .ageExpiry d

/-- The row of the table that an expiry taken within a tick is. -/
def Expiry.row : Expiry → Instr
  | .hold => .holdLimitExpiry
  | .array left => .arrayTimeout left
  | .age d => .ageExpiry d

end Sys2Proof

namespace Sys2Proof.Machine

/-! ### Invariants -/

/-- The array's contents are in canonical form. -/
def arrayCanonical (s : State) : Prop := Memory.wf s.array = true

/-- The commit queue holds at most 32 groups (R91). -/
def queueBounded (s : State) : Prop := s.queue.length ≤ 32

/-- The registers of limits hold values of their ranges (R49, R72, R136, R137), and the starvation count is at most 15
(R136). -/
def limitsSound (s : State) : Prop :=
  s.store.stalllvl.toNat ≤ 255
    ∧ 1 ≤ s.store.resumelvl.toNat ∧ s.store.resumelvl.toNat ≤ 511
    ∧ s.host.holdlim.toNat ≤ 255
    ∧ s.port.arrto.toNat ≤ 255
    ∧ 1 ≤ s.port.starve.toNat ∧ s.port.starve.toNat ≤ 15
    ∧ s.port.starveCount ≤ 15

/-- The store: free entries and entries in groups number 512 together (R42), RESUMELVL is greater than STALLLVL, in
FLOWING the free count is greater than STALLLVL, in THROTTLED it is less than RESUMELVL (R48). -/
def storeSound (s : State) : Prop :=
  freeCount s + usedEntries s = 512
    ∧ s.store.stalllvl.toNat < s.store.resumelvl.toNat
    ∧ (s.store.flow = .flowing → s.store.stalllvl.toNat < freeCount s)
    ∧ (s.store.flow = .throttled → freeCount s < s.store.resumelvl.toNat)

/-- No two entries of a group have the same address (R43). -/
def addressesDistinct (es : List Entry) : Prop := (es.map Entry.addr).Nodup

/-- One domain: a group of 1 to CEIL[d] entries exactly in OPEN (R17), the ceiling in its range (R19), the commit cell below
the journal base (R14), AGERLD[d] in its range (R145), auto-commit pending in OPEN alone with the counter at 0 (R17,
R32), closing in EMPTY or OPEN alone (R17), the counter at 0 outside OPEN (R148). A due expiry is one of a domain in
OPEN with its counter at 0, neither closing nor pending (R148). -/
def domainSound (st : Straps) (x : Domain) : Prop :=
  (x.state = .opened ↔ x.group ≠ [])
    ∧ x.group.length ≤ x.ceil.toNat
    ∧ addressesDistinct x.group
    ∧ 1 ≤ x.ceil.toNat ∧ x.ceil.toNat ≤ ceilMax st
    ∧ x.cell.toNat < journalBase st
    ∧ 1 ≤ x.agerld.toNat ∧ x.agerld.toNat ≤ 255
    ∧ (x.autoPending = true → x.state = .opened ∧ x.age = 0#16)
    ∧ (x.closing = true → x.state = .empty ∨ x.state = .opened)
    ∧ (x.age ≠ 0#16 → x.state = .opened)
    ∧ (x.ageDue = true → x.state = .opened ∧ x.age = 0#16 ∧ x.closing = false ∧ x.autoPending = false)

/-- The domains, the queued groups within their domain's ceiling (R19, R91), and the upper counter of a chained pair at 0
(R149). -/
def domainsSound (s : State) : Prop :=
  (∀ d, domainSound s.straps (s.domains.get d))
    ∧ (∀ g ∈ s.queue, g.entries.length ≤ (s.domains.get g.domain).ceil.toNat ∧ addressesDistinct g.entries)
    ∧ (s.ticks.chain01 = true → s.domains.at1.age = 0#16)
    ∧ (s.ticks.chain23 = true → s.domains.at3.age = 0#16)

/-- What recovery holds (R120 to R123): header words that begin with VALID, a whole header that has passed its tests, fewer
record words than the count asks, records still to go home with a lane and an address below the journal base. -/
def recoveryHolds (st : Straps) : Recovery → Prop
  | .marker => True
  | .header h => 1 ≤ h.length ∧ h.length < 8 ∧ wordAt h 0 = 0xC3A5#16
  | .records h ws =>
    h.length = 8 ∧ wordAt h 0 = 0xC3A5#16 ∧ headerValid st h = true ∧ ws.length < 3 * (wordAt h 3).toNat
  | .replay h rest =>
    h.length = 8 ∧ wordAt h 0 = 0xC3A5#16 ∧ headerValid st h = true ∧ rest ≠ []
      ∧ (∀ r ∈ rest, r.addr.toNat < journalBase st)
      ∧ (∀ r ∈ rest.head?, r.lanes.isEmpty = false)
  | .finish h => h.length = 8 ∧ wordAt h 0 = 0xC3A5#16 ∧ headerValid st h = true

/-- Recovery and its registers: RDOM is a domain and RCNT a record count (R124; their reserved bits read 0, R187). -/
def recoverySound (s : State) : Prop :=
  s.engine.rdom.toNat ≤ 3 ∧ s.engine.rcnt.toNat ≤ 512
    ∧ (∀ r, s.engine.state = .recovering r → recoveryHolds s.straps r)

/-- The engine's access that the array port holds, waiting or in progress (R103). -/
def engineOutstanding (p : Port) : Option Request :=
  match p.access with
  | some a => if a.requester = .engine then some a.request else p.engineReq
  | none => p.engineReq

/-- The engine has at most one array access outstanding (R103), it is the one its state asks for (R97 to R100, R119 to
R124, R129, R134), and a group in flight is the head of the queue (R95). -/
def engineSound (s : State) : Prop :=
  (s.engine.state.inFlight = true → s.queue ≠ [])
    ∧ engineOutstanding s.port = engineRequest s
    ∧ (∀ a, s.port.access = some a → a.requester = .engine → s.port.engineReq = none)

/-- A request that may write nothing at or above the journal base. -/
def writesBelowBase (st : Straps) (r : Request) : Prop := r.kind = .write → r.addr.toNat < journalBase st

/-- Every entry, every commit cell and every host write that can reach the array lies below the journal base (R14, R41,
R91). -/
def addressesSound (s : State) : Prop :=
  (∀ d, ∀ e ∈ (s.domains.get d).group, e.addr.toNat < journalBase s.straps)
    ∧ (∀ d, (s.domains.get d).cell.toNat < journalBase s.straps)
    ∧ (∀ g ∈ s.queue, g.cell.toNat < journalBase s.straps ∧ ∀ e ∈ g.entries, e.addr.toNat < journalBase s.straps)
    ∧ (∀ p d a l w hdp, s.host.port = .inProgress p → p.hold = .storeSpace d → p.access = .write a l w hdp →
        a.toNat < journalBase s.straps)
    ∧ (∀ r, s.port.hostReq = some r → writesBelowBase s.straps r)
    ∧ (∀ r, s.port.mgmtReq = some r → writesBelowBase s.straps r)
    ∧ (∀ a, s.port.access = some a → a.requester ≠ .engine → writesBelowBase s.straps a.request)

/-- While the engine writes a group home, or has faulted in doing so, with the journal on, word 0 of the journal in the
array holds VALID (R98, R99, R104). While recovery writes records home, the word 0 that it has read is VALID (R120, R123). -/
def homingHasValidJournal (s : State) : Prop :=
  (journalOn s.straps = true →
    (∃ i, s.engine.state = .homing i) ∨ (∃ i, s.engine.state = .faulted .homing i) →
      Memory.word s.array (journalAddr s.straps 0) = 0xC3A5#16)
    ∧ ∀ h rest, s.engine.state = .recovering (.replay h rest) → wordAt h 0 = 0xC3A5#16

/-- Whether a hold is a hold for the array (R71). -/
def Hold.forArray : Hold → Bool
  | .plainRead => true
  | .mergeRead _ => true
  | .passWrite => true
  | .deciding => false
  | .storeSpace _ => false
  | .queueSlot _ _ => false
  | .sync _ => false
  | .recovery => false

/-- How many requests the Host Port has waiting or in progress at the array port (R134). -/
def hostOutstanding (p : Port) : Nat :=
  p.hostReq.isSome.toNat + (match p.access with | some a => (decide (a.requester = .host)).toNat | none => 0)

/-- How many host requests the access in progress accounts for: one where it is held for the array. -/
def hostRequestsDue (s : State) : Nat :=
  match heldFor s with
  | some h => h.forArray.toNat
  | none => 0

/-- How many records the held commit is waited on by: one where a commit is held for sync (R30, R91). -/
def syncWaitersDue (s : State) : Nat :=
  match heldFor s with
  | some (.sync _) => 1
  | _ => 0

/-- Domain d is in EMPTY or OPEN. -/
def takesWrites (s : State) (d : Dom) : Prop := (s.domains.get d).state = .empty ∨ (s.domains.get d).state = .opened

/-- What the access in progress must be for the reason it is held (R28, R30, R50, R53, R54, R74, R81,
R161). -/
def holdSound (s : State) (p : Progress) : Prop :=
  match p.hold with
  | .deciding => False
  | .recovery => s.engine.state.isRecovering = true
  | .storeSpace d =>
    takesWrites s d ∧ s.store.flow = .throttled ∧ s.power.low = false
      ∧ ∃ a l w hdp, p.access = .write a l w hdp ∧ l.isEmpty = false ∧ ∀ e ∈ (s.domains.get d).group, e.addr ≠ a
  | .queueSlot d _ =>
    takesWrites s d ∧ (s.domains.get d).closing = true ∧ s.queue.length = 32 ∧ s.power.low = false
  | .sync d => ∃ g ∈ s.queue, g.sync = true ∧ g.domain = d
  | .mergeRead _ => ∃ a, p.access = .read a
  | .plainRead => ∃ a, p.access = .read a
  | .passWrite => ∃ a l w hdp, p.access = .write a l w hdp

/-- The Host Port, the array port and the queue agree on the access in progress, and levels asserted again stand only under
an access whose strobes ended early (R65). -/
def hostSound (s : State) : Prop :=
  (∀ p, s.host.port = .inProgress p → holdSound s p)
    ∧ (∀ bus, s.host.again = some bus → ∃ p, s.host.port = .inProgress p ∧ p.ended = true)
    ∧ hostOutstanding s.port = hostRequestsDue s
    ∧ (s.queue.filter (fun g => g.sync)).length = syncWaitersDue s

/-- The commit cells of enabled domains are distinct (R5). -/
def cellsDistinct (s : State) : Prop :=
  ∀ d e, d ≠ e → (s.domains.get d).enabled = true → (s.domains.get e).enabled = true →
    (s.domains.get d).cell ≠ (s.domains.get e).cell

/-! ### What a frame leaves -/

/-- The state `t` with the records of a complete write frame (R169, R172, R173): its status as last status and LASTSTAT;
on MSO the last status of before and the register's word of before. -/
def wrote (status : Status) (lastBefore : Status) (wordBefore : Word) (t : State) : State :=
  { t with mgmt := { t.mgmt with
      lastStatus := status, laststat := status, mso := ⟨lastBefore.code, wordBefore, 24⟩ } }

/-- A write frame that is refused with a status changes nothing but the records of the frame (R171, R172). -/
def refusedFrame (status : Status) (wordBefore : Word) (s : State) : State :=
  wrote status s.mgmt.lastStatus wordBefore s

/-- A write frame that is accepted, with its effect `t`. -/
def acceptedFrame (wordBefore : Word) (s t : State) : State := wrote .ok s.mgmt.lastStatus wordBefore t

/-- A complete frame under an MSS# held since a reset is no frame: after its events, MSS# is deasserted (R184). -/
def unrecognisedFrame (t : State) : State := { t with mgmt := { t.mgmt with mssHeld := false } }

/-- Everything but the management port is the same in two states. -/
def sameBlocks (s t : State) : Prop :=
  t.straps = s.straps ∧ t.cl = s.cl ∧ t.domains = s.domains ∧ t.abortval = s.abortval ∧ t.store = s.store
    ∧ t.queue = s.queue ∧ t.engine = s.engine ∧ t.port = s.port ∧ t.diag = s.diag ∧ t.host = s.host
    ∧ t.ticks = s.ticks ∧ t.power = s.power ∧ t.array = s.array ∧ t.pending = s.pending

/-- Nothing outside the domains, the store, the queue, the host port, the management port, the engine and the array port
differs: the straps, the classifier, ABORTVAL, the diagnostic read, the tick settings, the power filter, the array's
contents and the waiting commands are the same. -/
def sameSettings (s t : State) : Prop :=
  t.straps = s.straps ∧ t.cl = s.cl ∧ t.abortval = s.abortval ∧ t.diag = s.diag ∧ t.ticks = s.ticks
    ∧ t.power = s.power ∧ t.array = s.array ∧ t.pending = s.pending
    ∧ t.store.stalllvl = s.store.stalllvl ∧ t.store.resumelvl = s.store.resumelvl
    ∧ t.host.holdlim = s.host.holdlim ∧ t.port.arrto = s.port.arrto ∧ t.port.starve = s.port.starve
    ∧ t.mgmt.enables = s.mgmt.enables

/-- Every domain but d is the same in two states. -/
def sameOtherDomains (d : Dom) (s t : State) : Prop := ∀ e, e ≠ d → t.domains.get e = s.domains.get e

/-- The Host Port with an access that has just arrived (or was just released) held for a reason, its timer at 0 (R72). -/
def heldNow (a : Access) (h : Hold) : HostPort :=
  .inProgress { access := a, hold := h, count := 0, due := false, ended := false }

/-- The write captured from the bus (R63): with HPAR = 0 the parity bits are not captured. -/
def capturedWrite (s : State) (bus : HostBus) : Access :=
  .write bus.ha bus.hbe bus.hd (if s.straps.hpar then some bus.hdp else none)

/-- The Host Port after an access that drives nothing has completed (R64, R65). -/
def quietEnd (ended : Bool) : HostPort := if ended then .idle else .ending

/-- The Host Port after a read has completed with a word (R64, R65). -/
def readEnd (ended : Bool) (w : Word) : HostPort := if ended then .idle else .driving w

/-! ### Conditions on a command -/

/-- MSS# has been seen deasserted since the last reset, so the port recognises a frame (R184). -/
def framesSeen (s : State) : Prop := s.mgmt.mssHeld = false

/-- No levels stand asserted again under an access whose strobes ended early: its return to IDLE is no arrival (R65). -/
def noneAgain (s : State) : Prop := s.host.again = none

/-- An arrival is decided at once: the Host Port is IDLE and the engine is not RECOVERING (R62, R74). -/
def ready (s : State) : Prop := s.host.port = .idle ∧ s.engine.state.isRecovering = false

/-- An arriving write is taken by its class: neither BLOCKED nor POWER_LOW (R10). -/
def writesTaken (s : State) : Prop := ready s ∧ s.engine.state.isBlocked = false ∧ s.power.low = false

/-- The bus of a write with at least one lane enabled (R62, R66). -/
def isWrite (bus : HostBus) : Prop := bus.hwe = true ∧ bus.hoe = false ∧ bus.hbe.isEmpty = false

/-- The bus of a read (R62). -/
def isRead (bus : HostBus) : Prop := bus.hoe = true ∧ bus.hwe = false

/-- One lane's parity bit on the bus is good: the lane is not enabled, or the bit makes the lane odd (R68). -/
def laneParityGood (enabled : Bool) (lane : Byte) (bit : Bool) : Prop := enabled = true → bit = lane.oddParity

/-- The write on the bus has good parity, or parity is off (R68). -/
def parityGood (s : State) (bus : HostBus) : Prop :=
  s.straps.hpar = true →
    laneParityGood bus.hbe.lane0 bus.hd.lane0 (bus.hdp.getLsbD 0)
      ∧ laneParityGood bus.hbe.lane1 bus.hd.lane1 (bus.hdp.getLsbD 1)

/-- The part is quiescent: FREE reads 512 and the queue holds no group (R11). -/
def isQuiescent (s : State) : Prop := freeCount s = 512 ∧ s.queue = []

/-- No access is held for store space or for a queue slot. -/
def noneWaiting (s : State) : Prop :=
  ∀ p, s.host.port = .inProgress p → (∀ d, p.hold ≠ .storeSpace d) ∧ (∀ d tag, p.hold ≠ .queueSlot d tag)

/-- A staged write of domain d is held for store space (R50, R54). -/
def heldWrite (s : State) (p : Progress) (d : Dom) (a : Addr) (l : Lanes) (w : Word) : Prop :=
  s.host.port = .inProgress p ∧ p.hold = .storeSpace d ∧ (∃ hdp, p.access = .write a l w hdp) ∧ holdSound s p

/-- A commit of domain d is held for a queue slot (R28). -/
def heldCommit (s : State) (p : Progress) (d : Dom) (tag : Word) : Prop :=
  s.host.port = .inProgress p ∧ p.hold = .queueSlot d tag ∧ holdSound s p

/-- An access held for space or for a slot, if there is one, is what its hold asks for. -/
def waitingSound (s : State) : Prop := noneWaiting s ∨ ∀ p, s.host.port = .inProgress p → holdSound s p

/-- The head group may begin in the engine state that a begin finds (R96): HOLD clear, no power-low with the journal off. -/
abbrev mayBegin (s : State) : Prop := s.engine.hold = false ∧ (s.power.low = false ∨ journalOn s.straps = true)

/-- The state in which the engine begins a group (R96). -/
def firstPhase (st : Straps) : EngineState := if journalOn st then .copying 0 0 else .homing 0

/-- The engine state after the completion of an access of an apply, with n entries in the group (R97 to R100, R102);
`none`: the group retires. -/
def phaseAfter (on : Bool) (n : Nat) : EngineState → Option EngineState
  | .copying i w =>
    if w < 2 then some (.copying i (w + 1)) else if i < n then some (.copying (i + 1) 0) else some (.marking 1)
  | .marking k => if k = 0 then some (.homing 0) else if k < 7 then some (.marking (k + 1)) else some (.marking 0)
  | .homing i => if i < n then some (.homing (i + 1)) else if on then some .clearing else none
  | _ => none

/-- The word a staged write fills its entry with (R45). -/
def laneData (l : Lanes) (w : Word) : Word :=
  Word.ofLanes (if l.lane1 then w.lane1 else 0#8) (if l.lane0 then w.lane0 else 0#8)

/-- A domain's age counter after a staged write is taken (R146, R147): loaded or reloaded, or as it was. -/
def ageAfterWrite (s : State) (d : Dom) : Word × Bool :=
  let x := s.domains.get d
  if upperChained s.ticks d = false ∧ (x.state = .empty ∨ (x.ageMode = .idle ∧ x.autoPending = false)) then
    (ageReload s d, false)
  else (x.age, x.ageDue)

/-- The management port after an event that sets flags and raises counters. -/
def Mgmt.noted (m : Mgmt) (fs : List FlagId) (cs : List CounterId) : Mgmt :=
  { m with
    flags := fs.foldl (fun b f => b ||| f.bit) m.flags
    counters := cs.foldl (fun c k => c.set k (saturatingSucc (c.get k))) m.counters }

/-- Taking one entry throttles the store (R48). -/
def takeThrottles (s : State) : Bool :=
  decide (s.store.flow = .flowing ∧ freeCount s - 1 ≤ s.store.stalllvl.toNat)

/-- The state after domain d has taken a staged write into a new entry, with one flow test after it (R22, R45, R48, R146,
R147); the Host Port is left in `port`. -/
def tookEntry (s : State) (d : Dom) (a : Addr) (l : Lanes) (w : Word) (port : HostPort) : State :=
  let x := s.domains.get d
  { s with
    domains := s.domains.set d { x with
      state := .opened, group := x.group ++ [⟨a, l, laneData l w⟩],
      age := (ageAfterWrite s d).1, ageDue := (ageAfterWrite s d).2 }
    store := { s.store with flow := if takeThrottles s then .throttled else s.store.flow }
    host := { s.host with port := port }
    mgmt := if takeThrottles s then s.mgmt.noted [.throttle] [.writesStaged, .stallEvents]
      else s.mgmt.noted [] [.writesStaged] }

/-- A group's record as a commit queues it (R25). -/
def recordOf (s : State) (d : Dom) (tag : Word) (sync : Bool) : GroupRecord where
  seq := s.engine.seq
  domain := d
  tag := tag
  cell := (s.domains.get d).cell
  sync := sync
  entries := (s.domains.get d).group

/-- A domain after its group has been queued (R21, R25). -/
def emptied (x : Domain) (tag : Word) : Domain :=
  { x with state := .empty, closing := false, autoPending := false, group := [], lastTag := tag, age := 0#16,
           ageDue := false }

/-- A domain after a break (R31). -/
def brokenBy (c : BreakCause) (x : Domain) : Domain :=
  { x with state := .broken, closing := false, autoPending := false, group := [], age := 0#16, ageDue := false,
           breakCause := c }

/-- The flow state after `n` entries are released (R48, R57). -/
def flowReleased (s : State) (n : Nat) : Flow :=
  if s.store.flow = .throttled ∧ 0 < n ∧ s.store.resumelvl.toNat ≤ freeCount s + n then .flowing else s.store.flow

/-- The state after domain d has broken with a cause and the host's write has been dropped with cause BROKEN (R31, R53, R70);
`fs` are the flags set beside BROKEN and DROPPED, the Host Port is left in `port`. -/
def brokeAndDropped (s : State) (d : Dom) (c : BreakCause) (fs : List FlagId) (port : HostPort) : State :=
  { s with
    domains := s.domains.set d (brokenBy c (s.domains.get d))
    store := { s.store with flow := flowReleased s (s.domains.get d).group.length }
    host := { s.host with port := port, dropcause := .broken }
    mgmt := s.mgmt.noted (.broken :: .dropped :: fs) [.groupsBroken, .writesDropped] }

/-- The same for a commit of domain d, which takes it to EMPTY (R28). -/
def commitBrokeAndDropped (s : State) (d : Dom) (c : BreakCause) (fs : List FlagId) (port : HostPort) : State :=
  let t := brokeAndDropped s d c fs port
  { t with domains := t.domains.set d { brokenBy c (s.domains.get d) with state := .empty } }

/-- What an examination in the state `r` leaves of a staged write held for space, where domain d takes writes and its hold
limit has not expired (R53, R54): taken in FLOWING, or breaking a group at its ceiling; else held while drain is pending, or
breaking its domain with cause STORE_FULL. -/
def examinedWrite (r : State) (d : Dom) (a : Addr) (l : Lanes) (w : Word) (port : HostPort) : State :=
  let x := r.domains.get d
  if r.store.flow = .flowing then
    if x.state = .opened ∧ x.ceil.toNat ≤ x.group.length then brokeAndDropped r d .ceiling [] port
    else tookEntry r d a l w port
  else if r.queue ≠ [] ∧ r.engine.state.stopped = false then r
  else brokeAndDropped r d .storeFull [] port

/-- The access of recovery that ARDY ends takes the engine to the next place of recovery, with its access requested, and
leaves the array's contents `array`; nothing else changes (R120 to R124). -/
def recoveryGoesOn (ad : Option Word) (array : List Host.Cell) (r : Recovery) (s : State) : Prop :=
  ∃ t, exec (.arrayAccessComplete ad) s = .next t
    ∧ t = { s with engine := { s.engine with state := .recovering r }, port := t.port, array := array }
    ∧ engineOutstanding t.port = recoveryRequest s.straps r

/-- The read of recovery that ARDY ends takes the engine to BLOCKED with cause CHECK and sets RECFAIL; nothing else changes
(R125). -/
def recoveryFailsCheck (ad : Option Word) (s : State) : Prop :=
  exec (.arrayAccessComplete ad) s = .next { s with
    engine := { s.engine with state := .blocked .check false }
    port := Port.arbitrate { s.port with access := none }
    mgmt := s.mgmt.noted [.recfail] [] }

/-- The Host Port's state under strobes that ended early (R65): an access in progress is marked, and where the completion
has come the port is in IDLE. -/
def portEndedEarly : HostPort → HostPort
  | .inProgress p => .inProgress { p with ended := true }
  | _ => .idle

/-- The state in which the strobes of the host's access have ended early (R65). -/
def endedEarly (s : State) : State := { s with host := { s.host with port := portEndedEarly s.host.port } }

/-- The state with the levels on the host bus that stand asserted again under the access in progress (R65). -/
def withAgain (again : Option HostBus) (s : State) : State := { s with host := { s.host with again := again } }

end Sys2Proof.Machine
end

