-- ==== Sys2Proof/WellFormed.lean ====
section
/-! DEFINITION. Which commands are well formed: the operands are those that the row's event can bring. `exec` gives
every command a next state, well formed or not (an ill-formed write frame acts as the frame it spells). -/

namespace Sys2Proof

/-- The event an expiry names, less what it carries: one tick brings each at most once. -/
def Expiry.same : Expiry → Expiry → Bool
  | .hold, .hold => true
  | .array _, .array _ => true
  | .age d, .age e => d == e
  | _, _ => false

/-- No two of the expiries are of the same event. -/
def expiriesDistinct : List Expiry → Bool
  | [] => true
  | e :: rest => rest.all (fun f => !e.same f) && expiriesDistinct rest

/-- Whether the operands are those of the event: an arrival has a strobe asserted (R62), the expiries of one tick are
distinct (R137, R148). -/
def Event.wellFormed : Event → Bool
  | .hostArrival bus => bus.hwe || bus.hoe
  | .tick _ early => expiriesDistinct early
  | _ => true

/-- The events inside a complete frame; none for every other command. -/
def Instr.inside : Instr → List Event
  | .viewRead _ l => l
  | .registerWrite _ _ l => l
  | .holdOn l => l
  | .holdOff l => l
  | .retry l => l
  | .abandonHead l => l
  | .stageClear l => l
  | .recoverRetry l => l
  | .journalDiscard l => l
  | .winbaseWrite _ _ l => l
  | .winlimWrite _ _ l => l
  | .hsetWrite _ _ l => l
  | .hactWrite _ l => l
  | .defactWrite _ l => l
  | .ccloWrite _ _ l => l
  | .cchiWrite _ _ l => l
  | .domainEnable _ _ l => l
  | .domainDisable _ _ l => l
  | .dctlOptionsWrite _ _ l => l
  | .ceilWrite _ _ l => l
  | .abortvalWrite _ l => l
  | .stalllvlWrite _ l => l
  | .resumelvlWrite _ l => l
  | .holdlimWrite _ l => l
  | .arrtoWrite _ l => l
  | .starveWrite _ l => l
  | .tickdivWrite _ l => l
  | .agerldWrite _ _ l => l
  | .agechainWrite _ l => l
  | .jaddrloWrite _ l => l
  | .jaddrWrite _ l => l
  | .flagsWrite _ l => l
  | .enablesWrite _ l => l
  | .counterClear _ _ l => l
  | .unnamedEcmdCode _ l => l
  | _ => []

/-- The checks on a command's operands: those of its events; REGISTER_WRITE names an unused index or a read-only register
(R186); UNNAMED_ECMD_CODE carries a code that names no command (R106). -/
def Instr.wellFormed (c : Instr) : Bool :=
  c.inside.all Event.wellFormed
    && match c with
      | .hostAccessArrival bus => Event.wellFormed (.hostArrival bus)
      | .tick low early => Event.wellFormed (.tick low early)
      | .registerWrite index _ _ =>
        match regAt index with
        | none => true
        | some r => r.readOnly
      | .unnamedEcmdCode code _ => !ecmdNamed code
      | _ => true

end Sys2Proof
end

