-- ==== Sys2Proof/Certificates/Slice0/Obligations.lean ====
section
/-! DEFINITION. The statements about the block: the step and reset, the management port, the classifier and the domains'
settings, the engine commands, host accesses, the array port, time and power, the journal, and the invariants that
every step keeps. A statement about one management frame is of a frame that the port recognises (`framesSeen`) with no
event inside; RegisterMapAndWriteFrames gives every other frame from it. -/

open Sys2Proof Sys2Proof.Machine

/-! ### The step, reset -/

/-- A step takes the command at the front of the queue and runs it on the state with the queue's rest; with no command
waiting the block idles, which is the model's choice (notes/assumptions/7.md). -/
def Obligations.StepTakesFrontCommand : Prop :=
  (∀ (c : Instr) (rest : List Instr) (s : State), s.pending = c :: rest → step s = exec c { s with pending := rest })
    ∧ ∀ s : State, s.pending = [] → step s = .next s

/-- After RESET every register of the map reads its reset value of chapter 12. -/
def Obligations.ResetRegistersReadResetValues : Prop :=
  ∀ (st : Straps) (left : Option Word) (mssHeld : Bool) (s : State),
    ∃ t, exec (.reset st left mssHeld) s = .next t ∧ ∀ r : Reg, snapshot t r = r.resetValue st

/-- RESET empties the store, the queue and every domain, leaves the Host Port in ENDING and the filter NORMAL with both
samples high, recognises no frame before MSS# is seen deasserted where it is held, and keeps the array's contents where no
write was in progress. With the journal off the engine is IDLE and the port is idle; with it on the engine is RECOVERING
and its read of journal word 0 is in progress. That the waiting commands stay is the model's choice
(notes/assumptions/19.md). -/
def Obligations.ResetStartsRecoveryOrIdles : Prop :=
  ∀ (st : Straps) (left : Option Word) (mssHeld : Bool) (s : State),
    ∃ t, exec (.reset st left mssHeld) s = .next t
      ∧ t.straps = st ∧ usedEntries t = 0 ∧ t.queue = [] ∧ t.host.port = .ending ∧ noneAgain t
      ∧ t.power = ⟨false, false, false⟩ ∧ t.pending = s.pending ∧ (∀ d, t.domains.get d = Domain.cold)
      ∧ t.port.hostReq = none ∧ t.port.engineReq = none ∧ t.port.mgmtReq = none ∧ t.port.starveCount = 0
      ∧ t.mgmt.mssHeld = mssHeld
      ∧ ((∀ a, s.port.access = some a → a.request.kind = .read) → t.array = s.array)
      ∧ (st.jsz = 0#2 → t.engine.state = .idle ∧ t.port.access = none)
      ∧ (st.jsz ≠ 0#2 → t.engine.state = .recovering .marker
          ∧ t.port.access
            = some ⟨.engine, ⟨.read, BitVec.ofNat 20 (journalBase st), 0#16, Lanes.both⟩, 0, false⟩)

/-! ### Management port -/

/-- A register's index and the register at an index are inverse to each other, and the unused indices are 0x0F, 0x22,
0x23 and 0x54 to 0x5F. A complete write frame of a writable register's index acts as the row of the table that writes
this register, as it stands after the events inside the frame. A frame with events inside acts as the same frame with
none after these events, each the row of its event; but the word that it returns is of the end of byte 0, before them.
Under an MSS# held since a reset it is no frame: its events alone happen, and the next frame is recognised. On the wires, the
edges of MSS# and MSCK with the bits of three bytes on MSI are the frame that the bytes spell. That a frame is one command,
with its events as an operand, is the model's choice (notes/assumptions/14.md). -/
def Obligations.RegisterMapAndWriteFrames : Prop :=
  (
  (∀ r : Reg, regAt (BitVec.ofNat 7 r.index) = some r)
    ∧ (∀ (n : BitVec 7) (r : Reg), regAt n = some r → r.index = n.toNat)
    ∧ ∀ n : BitVec 7, regAt n = none ↔
        (n.toNat = 0x0F ∨ n.toNat = 0x22 ∨ n.toNat = 0x23 ∨ (0x54 ≤ n.toNat ∧ n.toNat ≤ 0x5F))
  )
  ∧
  (
  ∀ (r : Reg) (data : Word) (inside : List Event) (s t : State) (row frame : Instr), t = afterInside inside s →
    r.writeRow (fun d => (t.domains.get d).enabled) data inside = some row →
    r.writeRow (fun d => (t.domains.get d).enabled) data [] = some frame →
      exec (commandOfFrame (BitVec.ofNat 8 r.index) (Word.lane1 data) (Word.lane0 data) inside) s = exec row s
      ∧ (framesSeen s → ∃ u, exec frame t = .next u
          ∧ exec row s = .next { u with mgmt := { u.mgmt with mso := ⟨s.mgmt.lastStatus.code, snapshot s r, 24⟩ } })
      ∧ (¬framesSeen s → exec row s = .next (unrecognisedFrame t))
  )
  ∧
  (
  ∀ (e : Event) (inside : List Event) (s : State),
    exec e.row s = .next (takeEvent s e)
    ∧ afterInside (e :: inside) s = afterInside inside (takeEvent s e)
    ∧ afterInside [] s = s
  )
  ∧
  (
  ∀ (frame : BitVec 24) (inside : List Event) (s : State),
    exec (commandOfFrame (frame.extractLsb' 16 8) (frame.extractLsb' 8 8) (frame.extractLsb' 0 8) inside) s
      = .next ((Line.ofState s).wholeFrame frame inside).state
    ∧ ((Line.ofState s).wholeFrame frame inside).select = .waiting
  )

/-- A write frame of an unused index has status NOREG and carries 0x0000, one of a read-only register has status
READONLY and carries its snapshot of the end of byte 0; neither changes anything but the records of the frame, after the
events inside it. Under an MSS# held since a reset it is no frame. -/
def Obligations.NoRegisterAndReadOnlyWrites : Prop :=
  ∀ (index : BitVec 7) (data : Word) (inside : List Event) (s t : State), t = afterInside inside s →
    (framesSeen s →
      (regAt index = none →
        exec (.registerWrite index data inside) s = .next (wrote .noreg s.mgmt.lastStatus 0#16 t))
      ∧ ∀ r, regAt index = some r → r.readOnly = true →
        exec (.registerWrite index data inside) s = .next (wrote .readonly s.mgmt.lastStatus (snapshot s r) t))
    ∧ (¬framesSeen s → exec (.registerWrite index data inside) s = .next (unrecognisedFrame t))

/-- A read frame carries the last status of before and the register's snapshot of the end of byte 0, makes OK (NOREG at an
unused index) the last status, leaves LASTSTAT and every block, and loads VIEWX only where it reads ESTAT or DSTAT[d]: with
the record index or the open group's entry count of that snapshot and the view it came from. Events inside the frame have
their effects. Under an MSS# held since a reset it is no frame. An incomplete frame has no effect but the end of such an
MSS#: MSO alone has carried the last status, and from the eighth clock on the register's snapshot. MSO is not driven while
MSS# is deasserted; in a frame it shows the bits of the last status of before, then those of the snapshot of the end of
byte 0, most significant first, each after so many clocks, and it is low for the clocks after byte 2, which do nothing
else. That MSO is not driven under an MSS# held since a reset is the model's inference (notes/assumptions/14.md). -/
def Obligations.ReadFramesAndIncompleteFrames : Prop :=
  (∀ (r : Reg) (inside : List Event) (s t : State), t = afterInside inside s → framesSeen s →
    ∃ u, exec (.viewRead (BitVec.ofNat 7 r.index) inside) s = .next u ∧ sameBlocks t u
      ∧ u.mgmt = { t.mgmt with
          lastStatus := .ok, viewx := u.mgmt.viewx, mso := ⟨s.mgmt.lastStatus.code, snapshot s r, 24⟩ }
      ∧ (r = .estat → u.mgmt.viewx = ⟨.engine, BitVec.ofNat 10 s.engine.state.recordIndex⟩)
      ∧ (∀ d, r = .dstat d → u.mgmt.viewx = ⟨.domain d, BitVec.ofNat 10 (s.domains.get d).group.length⟩)
      ∧ (r ≠ .estat → (∀ d, r ≠ .dstat d) → u.mgmt.viewx = s.mgmt.viewx))
  ∧ (∀ (index : BitVec 7) (inside : List Event) (s t : State), t = afterInside inside s →
      (framesSeen s → regAt index = none →
        exec (.viewRead index inside) s = .next { t with mgmt := { t.mgmt with
          lastStatus := .noreg, mso := ⟨s.mgmt.lastStatus.code, 0#16, 24⟩ } })
      ∧ (¬framesSeen s → exec (.viewRead index inside) s = .next (unrecognisedFrame t)))
  ∧ (∀ (frame : BitVec 24) (clocks : Fin 24) (s : State),
      (¬framesSeen s → exec (.incompleteFrame frame clocks) s = .next (unrecognisedFrame s))
      ∧ (framesSeen s → ∃ w, exec (.incompleteFrame frame clocks) s = .next
            { s with mgmt := { s.mgmt with mso := ⟨s.mgmt.lastStatus.code, w, clocks.val⟩ } }
          ∧ (clocks.val < 8 → w = 0#16)
          ∧ (∀ r : Reg, 8 ≤ clocks.val → regAt (frame.extractLsb' 16 7) = some r → w = snapshot s r)
          ∧ (8 ≤ clocks.val → regAt (frame.extractLsb' 16 7) = none → w = 0#16)))
  ∧ (∀ (frame : BitVec 24) (inside : List Event) (s : State) (l m : Line) (w : Word),
      l = Line.clocks frame 0 8 (Line.ofState s).assertMss → m = inside.foldl Line.event l →
      (∀ r : Reg, regAt (frame.extractLsb' 16 7) = some r → w = snapshot s r) →
      (regAt (frame.extractLsb' 16 7) = none → w = 0#16) →
      (framesSeen s →
        (∀ n, n < 8 → (Line.clocks frame 0 n (Line.ofState s).assertMss).mso = some (s.mgmt.lastStatus.code.getMsbD n))
        ∧ (∀ n, n < 16 → (Line.clocks frame 8 n m).mso = some (w.getMsbD n))
        ∧ ∀ n, (Line.clocks frame 8 (16 + n) m).mso = some false
            ∧ (Line.clocks frame 8 (16 + n) m).state = (Line.clocks frame 8 16 m).state)
      ∧ (¬framesSeen s → ∀ n, (Line.clocks frame 0 n (Line.ofState s).assertMss).mso = none))
  ∧ ∀ (s : State) (l : Line), (Line.ofState s).mso = none ∧ l.deassertMss.mso = none

/-- Every reserved bit reads as 0 in the snapshot of every register, where RDOM holds a domain. The fields of ESTAT, DSTAT[d]
and VIEWX stand at their places with the codes of chapter 12. AGECNT[d] reads the counter of a domain that is OPEN, neither
closing nor pending nor the upper one of a chained pair, and 0 for every other; that it reads 0 while the domain is closing
is the model's inference (notes/assumptions/16.md). -/
def Obligations.RegisterFieldPlaces : Prop :=
  (
  ∀ (s : State) (r : Reg), s.engine.rdom.toNat ≤ 3 → snapshot s r &&& r.reservedBits = 0#16
  )
  ∧
  (
  ∀ (s : State), s.queue.length ≤ 32 →
    ((snapshot s .estat).extractLsb' 0 3).toNat
        = (match s.engine.state with
          | .recovering _ => 0
          | .blocked _ _ => 1
          | .idle => 2
          | .copying _ _ => 3
          | .marking _ => 4
          | .homing _ => 5
          | .clearing => 6
          | .faulted _ _ => 7)
      ∧ ((snapshot s .estat).extractLsb' 3 3).toNat
        = (match s.engine.state with
          | .copying _ _ => 1
          | .marking _ => 2
          | .homing _ => 3
          | .clearing => 4
          | .faulted .copying _ => 1
          | .faulted .marking _ => 2
          | .faulted .homing _ => 3
          | .faulted .clearing _ => 4
          | _ => 0)
      ∧ ((snapshot s .estat).extractLsb' 6 2).toNat
        = (match s.engine.state with
          | .faulted _ _ => 1
          | .blocked .array _ => 1
          | .blocked .check _ => 2
          | _ => 0)
      ∧ (snapshot s .estat).getLsbD 8 = s.engine.hold
      ∧ ((snapshot s .estat).extractLsb' 9 6).toNat = s.queue.length
      ∧ (snapshot s .viewx).extractLsb' 0 10 = s.mgmt.viewx.value
      ∧ ((snapshot s .viewx).extractLsb' 13 3).toNat
        = (match s.mgmt.viewx.source with
          | .none => 0
          | .engine => 1
          | .domain d => 4 + d.toNat)
  )
  ∧
  (
  ∀ (s : State) (d : Dom) (x : Domain), x = s.domains.get d → s.queue.length ≤ 32 →
    ((snapshot s (.dstat d)).extractLsb' 0 2).toNat
        = (match x.state with
          | .off => 0
          | .empty => 1
          | .opened => 2
          | .broken => 3)
      ∧ (snapshot s (.dstat d)).getLsbD 2 = x.closing
      ∧ (snapshot s (.dstat d)).getLsbD 3 = x.autoPending
      ∧ ((snapshot s (.dstat d)).extractLsb' 4 4).toNat
        = (match x.breakCause with
          | .none => 0
          | .ceiling => 1
          | .storeFull => 2
          | .hold => 3
          | .queueFull => 4
          | .parity => 5
          | .format => 6
          | .age => 7
          | .power => 8
          | .clear => 9)
      ∧ ((snapshot s (.dstat d)).extractLsb' 8 6).toNat = (s.queue.filter (fun g => g.domain == d)).length
      ∧ (x.state = .opened → x.closing = false → x.autoPending = false →
          ¬(s.ticks.chain01 = true ∧ d = .i1) → ¬(s.ticks.chain23 = true ∧ d = .i3) → snapshot s (.agecnt d) = x.age)
      ∧ (x.state ≠ .opened ∨ x.closing = true ∨ x.autoPending = true
          ∨ (s.ticks.chain01 = true ∧ d = .i1) ∨ (s.ticks.chain23 = true ∧ d = .i3) → snapshot s (.agecnt d) = 0#16)
  )

/-- A FLAGS write clears exactly the flags whose bits are 1, an ENABLES write replaces all thirteen enables, a write
of any value to a counter clears that counter alone; each recognised frame is accepted in every state, acts after the events
inside it, returns the register as it stood before them, and changes nothing else. A counter rises by one at its event and
stays at 65535; no other counter, no flag and no other block changes. Setting a flag leaves every other flag. -/
def Obligations.FlagsEnablesAndCounters : Prop :=
  (
  ∀ (data : Word) (c : CounterId) (inside : List Event) (s v : State), v = afterInside inside s → framesSeen s →
    exec (.flagsWrite data inside) s = .next (acceptedFrame (s.mgmt.flags.setWidth 16) s
      { v with mgmt := { v.mgmt with flags := v.mgmt.flags &&& ~~~(data.setWidth 13) } })
    ∧ exec (.enablesWrite data inside) s = .next (acceptedFrame (s.mgmt.enables.setWidth 16) s
      { v with mgmt := { v.mgmt with enables := data.setWidth 13 } })
    ∧ (∃ t, exec (.counterClear c data inside) s = .next t ∧ sameBlocks v t
        ∧ t.mgmt.counters.get c = 0#16
        ∧ (∀ k, k ≠ c → t.mgmt.counters.get k = v.mgmt.counters.get k)
        ∧ t.mgmt = { v.mgmt with counters := t.mgmt.counters, lastStatus := .ok, laststat := .ok,
                                 mso := ⟨s.mgmt.lastStatus.code, s.mgmt.counters.get c, 24⟩ })
  )
  ∧
  (
  ∀ (c : CounterId) (f : FlagId) (s : State),
    ((bump c s).mgmt.counters.get c).toNat = min 65535 ((s.mgmt.counters.get c).toNat + 1)
    ∧ (∀ k, k ≠ c → (bump c s).mgmt.counters.get k = s.mgmt.counters.get k)
    ∧ (bump c s).mgmt.flags = s.mgmt.flags ∧ sameBlocks s (bump c s)
    ∧ (setFlag f s).flag f = true
    ∧ (∀ g, g ≠ f → (setFlag f s).flag g = s.flag g)
    ∧ (setFlag f s).mgmt.counters = s.mgmt.counters ∧ sameBlocks s (setFlag f s)
  )

/-- IRQ# is asserted exactly while a flag is both set and enabled. CAUSE names such a flag with none of a higher priority
both set and enabled, in the order RECFAIL, FAULT, POWER, ARRAY, BROKEN, HOLD, PARITY, DROPPED, AGE, THROTTLE, POWEROK,
RECOVERED, APPLIED; it reads 0x00FF where no flag is both set and enabled. -/
def Obligations.InterruptAndCause : Prop :=
  ∀ s : State,
    (s.irqAsserted = true ↔ ∃ f : FlagId, s.flag f = true ∧ s.mgmt.enables.getLsbD f.num = true)
    ∧ (s.irqAsserted = false → s.cause = 0x00FF#16)
    ∧ ∀ (f : FlagId) (before after : List FlagId),
        before ++ f :: after = [.recfail, .fault, .power, .array, .broken, .hold, .parity, .dropped, .age, .throttle,
          .powerok, .recovered, .applied] →
        s.flag f = true → s.mgmt.enables.getLsbD f.num = true →
        (∀ g ∈ before, ¬(s.flag g = true ∧ s.mgmt.enables.getLsbD g.num = true)) →
        s.cause = BitVec.ofNat 16 f.num

/-! ### Settings -/

/-- A WINBASE[i] write: RANGE for the kind code 3 and for an entry that would be enabled with its limit below its
base, BUSY where the part is not quiescent, else the entry takes the fields, every other entry stays, and the register
reads the word back without its reserved bit. A WINLIM[i] write: RANGE for an enabled entry whose limit would lie
below its base, BUSY where the part is not quiescent, else the entry takes the domain and the limit page. -/
def Obligations.WindowTableWrites : Prop :=
  (
  ∀ (i : Fin 16) (data : Word) (s : State), framesSeen s →
    (data.extractLsb' 12 2 = 3#2 →
      exec (.winbaseWrite i data []) s = .next (refusedFrame .range (snapshot s (.winbase i)) s))
    ∧ ∀ k : WindowKind, data.extractLsb' 12 2 = k.code →
      ((data.getLsbD 15 = true ∧ s.cl.windows[i].limit < data.setWidth 12 →
        exec (.winbaseWrite i data []) s = .next (refusedFrame .range (snapshot s (.winbase i)) s))
      ∧ (¬(data.getLsbD 15 = true ∧ s.cl.windows[i].limit < data.setWidth 12) →
        (¬isQuiescent s → exec (.winbaseWrite i data []) s = .next (refusedFrame .busy (snapshot s (.winbase i)) s))
        ∧ (isQuiescent s → ∃ t, exec (.winbaseWrite i data []) s = .next (acceptedFrame (snapshot s (.winbase i)) s t)
            ∧ t = { s with cl := { s.cl with windows := t.cl.windows } }
            ∧ t.cl.windows[i] = { s.cl.windows[i] with
                enable := data.getLsbD 15, kind := k, base := data.setWidth 12 }
            ∧ (∀ j : Fin 16, j ≠ i → t.cl.windows[j] = s.cl.windows[j])
            ∧ snapshot t (.winbase i) = data &&& 0xBFFF#16)))
  )
  ∧
  (
  ∀ (i : Fin 16) (data : Word) (s : State), framesSeen s →
    (s.cl.windows[i].enable = true ∧ (data.setWidth 12 : BitVec 12) < s.cl.windows[i].base →
      exec (.winlimWrite i data []) s = .next (refusedFrame .range (snapshot s (.winlim i)) s))
    ∧ (¬(s.cl.windows[i].enable = true ∧ (data.setWidth 12 : BitVec 12) < s.cl.windows[i].base) →
      (¬isQuiescent s → exec (.winlimWrite i data []) s = .next (refusedFrame .busy (snapshot s (.winlim i)) s))
      ∧ (isQuiescent s → ∃ t, exec (.winlimWrite i data []) s = .next (acceptedFrame (snapshot s (.winlim i)) s t)
          ∧ t = { s with cl := { s.cl with windows := t.cl.windows } }
          ∧ t.cl.windows[i] = { s.cl.windows[i] with
              domain := Ix4.ofBits (data.extractLsb' 12 2), limit := data.setWidth 12 }
          ∧ (∀ j : Fin 16, j ≠ i → t.cl.windows[j] = s.cl.windows[j])
          ∧ snapshot t (.winlim i) = data &&& 0x3FFF#16))
  )

/-- Writes of HSETk, HACT and DEFACT: RANGE for a code that names no value, then BUSY where the part is not quiescent,
else the register takes the value: all sixteen positions of HSETk, the kind and the domain of HACT, the action of
DEFACT. -/
def Obligations.HashAndDefaultWrites : Prop :=
  ∀ (k : Ix4) (data : Word) (s : State), framesSeen s →
    (¬isQuiescent s → exec (.hsetWrite k data []) s = .next (refusedFrame .busy (s.cl.hset.get k) s))
    ∧ (isQuiescent s → ∃ t, exec (.hsetWrite k data []) s = .next (acceptedFrame (s.cl.hset.get k) s t)
        ∧ t = { s with cl := { s.cl with hset := t.cl.hset } } ∧ t.cl.hset.get k = data
        ∧ ∀ j, j ≠ k → t.cl.hset.get j = s.cl.hset.get j)
    ∧ (data.extractLsb' 0 2 = 0#2 ∨ data.extractLsb' 0 2 = 3#2 →
        exec (.hactWrite data []) s = .next (refusedFrame .range (snapshot s .hact) s))
    ∧ (∀ kind : HashKind, data.extractLsb' 0 2 = kind.code →
        (¬isQuiescent s → exec (.hactWrite data []) s = .next (refusedFrame .busy (snapshot s .hact) s))
        ∧ (isQuiescent s → exec (.hactWrite data []) s = .next (acceptedFrame (snapshot s .hact) s
            { s with cl := { s.cl with hashKind := kind, hashDomain := Ix4.ofBits (data.extractLsb' 4 2) } })))
    ∧ (data.extractLsb' 0 2 = 1#2 ∨ data.extractLsb' 0 2 = 3#2 →
        exec (.defactWrite data []) s = .next (refusedFrame .range (snapshot s .defact) s))
    ∧ ∀ act : DefaultAction, data.extractLsb' 0 2 = act.code →
        (¬isQuiescent s → exec (.defactWrite data []) s = .next (refusedFrame .busy (snapshot s .defact) s))
        ∧ (isQuiescent s → exec (.defactWrite data []) s = .next (acceptedFrame (snapshot s .defact) s
            { s with cl := { s.cl with defact := act } }))

/-- CCLO[d] loads the latch in every state. CCHI[d] forms the address of its four bits and the latch: RANGE at or
above the journal base, CONFLICT with another enabled domain's cell where d is enabled, BUSY where the part is not
quiescent, else the address becomes the commit cell. -/
def Obligations.CommitCellWrites : Prop :=
  ∀ (d : Dom) (data : Word) (s : State) (a : Addr), framesSeen s →
    a = (data.setWidth 4 : BitVec 4) ++ (s.domains.get d).cellLatch →
    (∃ t, exec (.ccloWrite d data []) s = .next (acceptedFrame (snapshot s (.cclo d)) s t)
      ∧ t = { s with domains := t.domains } ∧ t.domains.get d = { s.domains.get d with cellLatch := data }
      ∧ sameOtherDomains d s t)
    ∧ (journalBase s.straps ≤ a.toNat →
        exec (.cchiWrite d data []) s = .next (refusedFrame .range (snapshot s (.cchi d)) s))
    ∧ (a.toNat < journalBase s.straps →
        ((s.domains.get d).enabled = true ∧ (∃ e, e ≠ d ∧ (s.domains.get e).enabled = true ∧ (s.domains.get e).cell = a) →
          exec (.cchiWrite d data []) s = .next (refusedFrame .conflict (snapshot s (.cchi d)) s))
        ∧ (¬((s.domains.get d).enabled = true
              ∧ ∃ e, e ≠ d ∧ (s.domains.get e).enabled = true ∧ (s.domains.get e).cell = a) →
          (¬isQuiescent s → exec (.cchiWrite d data []) s = .next (refusedFrame .busy (snapshot s (.cchi d)) s))
          ∧ (isQuiescent s → ∃ t, exec (.cchiWrite d data []) s = .next (acceptedFrame (snapshot s (.cchi d)) s t)
              ∧ t = { s with domains := t.domains } ∧ t.domains.get d = { s.domains.get d with cell := a }
              ∧ sameOtherDomains d s t)))

/-- Enabling an OFF domain: RANGE for age action 3, CONFLICT with another enabled domain's cell, BUSY where the part
is not quiescent, else the domain is EMPTY with its options of the word, closing and pending clear and the counter at
0. Disabling an enabled domain: RANGE for age action 3, STATE from OPEN, BUSY where the part is not quiescent, else
the domain is OFF with its tags, its ceiling, its cell and its break cause kept. -/
def Obligations.DomainEnablingAndDisabling : Prop :=
  (
  ∀ (d : Dom) (data : Word) (s : State), framesSeen s → (s.domains.get d).state = .off →
    (data.extractLsb' 3 2 = 3#2 →
      exec (.domainEnable d data []) s = .next (refusedFrame .range (snapshot s (.dctl d)) s))
    ∧ ∀ act : AgeAction, data.extractLsb' 3 2 = act.code →
      ((∃ e, e ≠ d ∧ (s.domains.get e).enabled = true ∧ (s.domains.get e).cell = (s.domains.get d).cell) →
        exec (.domainEnable d data []) s = .next (refusedFrame .conflict (snapshot s (.dctl d)) s))
      ∧ ((∀ e, e ≠ d → (s.domains.get e).enabled = true → (s.domains.get e).cell ≠ (s.domains.get d).cell) →
        (¬isQuiescent s → exec (.domainEnable d data []) s = .next (refusedFrame .busy (snapshot s (.dctl d)) s))
        ∧ (isQuiescent s → ∃ t, exec (.domainEnable d data []) s = .next (acceptedFrame (snapshot s (.dctl d)) s t)
            ∧ t = { s with domains := t.domains } ∧ sameOtherDomains d s t
            ∧ t.domains.get d = { s.domains.get d with
                state := .empty, closing := false, autoPending := false, age := 0#16, ageDue := false,
                sync := data.getLsbD 1, ageMode := if data.getLsbD 2 then .idle else .total, ageAction := act }))
  )
  ∧
  (
  ∀ (d : Dom) (data : Word) (s : State), framesSeen s → (s.domains.get d).state ≠ .off →
    (data.extractLsb' 3 2 = 3#2 →
      exec (.domainDisable d data []) s = .next (refusedFrame .range (snapshot s (.dctl d)) s))
    ∧ ∀ act : AgeAction, data.extractLsb' 3 2 = act.code →
      ((s.domains.get d).state = .opened →
        exec (.domainDisable d data []) s = .next (refusedFrame .state (snapshot s (.dctl d)) s))
      ∧ ((s.domains.get d).state ≠ .opened →
        (¬isQuiescent s → exec (.domainDisable d data []) s = .next (refusedFrame .busy (snapshot s (.dctl d)) s))
        ∧ (isQuiescent s → ∃ t, exec (.domainDisable d data []) s = .next (acceptedFrame (snapshot s (.dctl d)) s t)
            ∧ t = { s with domains := t.domains } ∧ sameOtherDomains d s t
            ∧ t.domains.get d = { s.domains.get d with
                state := .off, closing := false, autoPending := false, age := 0#16, ageDue := false,
                sync := data.getLsbD 1, ageMode := if data.getLsbD 2 then .idle else .total, ageAction := act }))
  )

/-- A DCTL[d] write that leaves the enable option is refused with RANGE for age action 3 and otherwise accepted in
every state; it changes the three other options alone. A CEIL[d] write: RANGE for 0 and above 512 (with the journal on
above r - 1), BUSY below the entry count of a group of d, else the ceiling takes the value. -/
def Obligations.DomainOptionAndCeilingWrites : Prop :=
  (
  ∀ (d : Dom) (data : Word) (s : State), framesSeen s →
    (data.extractLsb' 3 2 = 3#2 →
      exec (.dctlOptionsWrite d data []) s = .next (refusedFrame .range (snapshot s (.dctl d)) s))
    ∧ ∀ act : AgeAction, data.extractLsb' 3 2 = act.code →
      ∃ t, exec (.dctlOptionsWrite d data []) s = .next (acceptedFrame (snapshot s (.dctl d)) s t)
        ∧ t = { s with domains := t.domains } ∧ sameOtherDomains d s t
        ∧ t.domains.get d = { s.domains.get d with
            sync := data.getLsbD 1, ageMode := if data.getLsbD 2 then .idle else .total, ageAction := act }
  )
  ∧
  (
  ∀ (d : Dom) (data : Word) (s : State) (greatest : Nat), framesSeen s →
    greatest = (if s.straps.jsz = 0#2 then 512 else journalRecords s.straps - 1) →
    (data = 0#16 ∨ greatest < data.toNat →
      exec (.ceilWrite d data []) s = .next (refusedFrame .range (s.domains.get d).ceil s))
    ∧ (data ≠ 0#16 → data.toNat ≤ greatest →
      (data.toNat < (s.domains.get d).group.length
          ∨ (∃ g ∈ s.queue, g.domain = d ∧ data.toNat < g.entries.length) →
        exec (.ceilWrite d data []) s = .next (refusedFrame .busy (s.domains.get d).ceil s))
      ∧ ((s.domains.get d).group.length ≤ data.toNat
          → (∀ g ∈ s.queue, g.domain = d → g.entries.length ≤ data.toNat) →
        ∃ t, exec (.ceilWrite d data []) s = .next (acceptedFrame (s.domains.get d).ceil s t)
          ∧ t = { s with domains := t.domains } ∧ sameOtherDomains d s t
          ∧ t.domains.get d = { s.domains.get d with ceil := data }))
  )

/-- Writes of ABORTVAL, TICKDIV and JADDRLO are accepted in every state with every value; a TICKDIV write sets the
divider count to 0 and keeps every count of ticks. HOLDLIM and ARRTO take 0 to 255, AGERLD[d] 1 to 255, in every
state; any other value is refused with RANGE. Nothing but the register changes: no count already reached. -/
def Obligations.AcceptedAndRangedWrites : Prop :=
  (
  ∀ (data : Word) (s : State), framesSeen s →
    exec (.abortvalWrite data []) s = .next (acceptedFrame s.abortval s { s with abortval := data })
    ∧ exec (.tickdivWrite data []) s = .next (acceptedFrame s.ticks.tickdiv s
        { s with ticks := { s.ticks with tickdiv := data, divCount := 0 } })
    ∧ exec (.jaddrloWrite data []) s = .next (acceptedFrame s.diag.latch s
        { s with diag := { s.diag with latch := data } })
  )
  ∧
  (
  ∀ (d : Dom) (data : Word) (s : State), framesSeen s →
    (255 < data.toNat →
      exec (.holdlimWrite data []) s = .next (refusedFrame .range s.host.holdlim s)
      ∧ exec (.arrtoWrite data []) s = .next (refusedFrame .range s.port.arrto s))
    ∧ (data.toNat ≤ 255 →
      exec (.holdlimWrite data []) s = .next (acceptedFrame s.host.holdlim s
        { s with host := { s.host with holdlim := data } })
      ∧ exec (.arrtoWrite data []) s = .next (acceptedFrame s.port.arrto s
        { s with port := { s.port with arrto := data } }))
    ∧ (data.toNat = 0 ∨ 255 < data.toNat →
      exec (.agerldWrite d data []) s = .next (refusedFrame .range (s.domains.get d).agerld s))
    ∧ (1 ≤ data.toNat → data.toNat ≤ 255 →
      ∃ t, exec (.agerldWrite d data []) s = .next (acceptedFrame (s.domains.get d).agerld s t)
        ∧ t = { s with domains := t.domains } ∧ sameOtherDomains d s t
        ∧ t.domains.get d = { s.domains.get d with agerld := data })
  )

/-- STALLLVL takes 0 to 255 below RESUMELVL, RESUMELVL 1 to 511 above STALLLVL, else RANGE. An accepted STALLLVL write
throttles a FLOWING store whose free count is at or below it, with the THROTTLE flag and one stall event; an accepted
RESUMELVL write returns a THROTTLED store whose free count has reached it to FLOWING. Stated where no access waits for
space or a slot. A staged write held for space is examined after either write: in FLOWING it is taken into a new entry or
breaks its group at the ceiling, in THROTTLED it stays held while drain is pending and otherwise breaks its domain with
cause STORE_FULL. A commit held for a slot stays held while drain is pending. -/
def Obligations.ThresholdWrites : Prop :=
  ∀ (data : Word) (s : State), framesSeen s →
    (255 < data.toNat ∨ s.store.resumelvl.toNat ≤ data.toNat →
      exec (.stalllvlWrite data []) s = .next (refusedFrame .range s.store.stalllvl s))
    ∧ (data.toNat = 0 ∨ 511 < data.toNat ∨ data.toNat ≤ s.store.stalllvl.toNat →
      exec (.resumelvlWrite data []) s = .next (refusedFrame .range s.store.resumelvl s))
    ∧ (storeSound s → noneAgain s → data.toNat ≤ 255 → data.toNat < s.store.resumelvl.toNat →
      ∀ t : State, t = (if s.store.flow = .flowing ∧ freeCount s ≤ data.toNat then
          { s with store := ⟨.throttled, data, s.store.resumelvl⟩, mgmt := s.mgmt.noted [.throttle] [.stallEvents] }
        else { s with store := ⟨s.store.flow, data, s.store.resumelvl⟩ }) →
      (noneWaiting s ∨ ((∃ p d tag, heldCommit s p d tag) ∧ s.engine.state.stopped = false) →
        exec (.stalllvlWrite data []) s = .next (acceptedFrame s.store.stalllvl s t))
      ∧ ∀ p d a l w, heldWrite s p d a l w → domainSound s.straps (s.domains.get d) →
        exec (.stalllvlWrite data []) s
          = .next (acceptedFrame s.store.stalllvl s (examinedWrite t d a l w (quietEnd p.ended))))
    ∧ (storeSound s → noneAgain s → data.toNat ≤ 511 → s.store.stalllvl.toNat < data.toNat →
      ∀ t : State, t = { s with
          store := ⟨if data.toNat ≤ freeCount s then .flowing else s.store.flow, s.store.stalllvl, data⟩ } →
      (noneWaiting s ∨ ((∃ p d tag, heldCommit s p d tag) ∧ s.engine.state.stopped = false) →
        exec (.resumelvlWrite data []) s = .next (acceptedFrame s.store.resumelvl s t))
      ∧ ∀ p d a l w, heldWrite s p d a l w → domainSound s.straps (s.domains.get d) →
        exec (.resumelvlWrite data []) s
          = .next (acceptedFrame s.store.resumelvl s (examinedWrite t d a l w (quietEnd p.ended))))

/-- An AGECHAIN write is refused with BUSY where a pair whose setting it changes has a domain in OPEN or BROKEN, and
otherwise sets both chain settings. -/
def Obligations.ChainWrites : Prop :=
  ∀ (data : Word) (s : State) (unfree : Dom → Prop), framesSeen s →
    (∀ d, unfree d ↔ ((s.domains.get d).state = .opened ∨ (s.domains.get d).state = .broken)) →
    ((data.getLsbD 0 ≠ s.ticks.chain01 ∧ (unfree .i0 ∨ unfree .i1))
        ∨ (data.getLsbD 1 ≠ s.ticks.chain23 ∧ (unfree .i2 ∨ unfree .i3)) →
      exec (.agechainWrite data []) s = .next (refusedFrame .busy (snapshot s .agechain) s))
    ∧ (¬((data.getLsbD 0 ≠ s.ticks.chain01 ∧ (unfree .i0 ∨ unfree .i1))
        ∨ (data.getLsbD 1 ≠ s.ticks.chain23 ∧ (unfree .i2 ∨ unfree .i3))) →
      exec (.agechainWrite data []) s = .next (acceptedFrame (snapshot s .agechain) s
        { s with ticks := { s.ticks with chain01 := data.getLsbD 0, chain23 := data.getLsbD 1 } }))

/-- A JADDR write forms the address of its four bits and the latch: RANGE at or above the array size, BUSY while a
read is PENDING, else JSTAT is PENDING and one read of the address is requested: begun at once at an idle port with no
request waiting, waiting where the port is busy. The diagnostic read ends: by ARDY with the word in JDATA and DONE, by
a due timeout with 0xFFFF and TIMEOUT; no flag, no counter and ARRSRC do not change. ARDY at an idle port has no
effect. That a timeout not due and a timeout at an idle port change nothing is the model's (notes/assumptions/8.md and
9.md). -/
def Obligations.DiagnosticRead : Prop :=
  (
  ∀ (data : Word) (s : State) (a : Addr), framesSeen s → a = (data.setWidth 4 : BitVec 4) ++ s.diag.latch →
    (arrayWords s.straps ≤ a.toNat → exec (.jaddrWrite data []) s = .next (refusedFrame .range (snapshot s .jaddr) s))
    ∧ (a.toNat < arrayWords s.straps → s.diag.status = .pending →
        exec (.jaddrWrite data []) s = .next (refusedFrame .busy (snapshot s .jaddr) s))
    ∧ (a.toNat < arrayWords s.straps → s.diag.status ≠ .pending →
        (∀ b, s.port.access = some b →
          exec (.jaddrWrite data []) s = .next (acceptedFrame (snapshot s .jaddr) s
            { s with diag := { s.diag with addr := a, status := .pending },
                     port := { s.port with mgmtReq := some ⟨.read, a, 0#16, Lanes.both⟩ } }))
        ∧ (s.port.access = none → s.port.hostReq = none → s.port.engineReq = none →
          exec (.jaddrWrite data []) s = .next (acceptedFrame (snapshot s .jaddr) s
            { s with diag := { s.diag with addr := a, status := .pending },
                     port := { s.port with
                       access := some ⟨.mgmt, ⟨.read, a, 0#16, Lanes.both⟩, 0, false⟩,
                       mgmtReq := none, starveCount := 0 } })))
  )
  ∧
  (
  ∀ (s : State) (ad left : Option Word) (a : Addr) (n : Nat) (due : Bool),
    (s.port.access = some ⟨.mgmt, ⟨.read, a, 0#16, Lanes.both⟩, n, due⟩ →
      exec (.arrayAccessComplete ad) s = .next { s with
        port := Port.arbitrate { s.port with access := none }
        diag := { s.diag with data := ad.getD (Memory.word s.array a), status := .done } }
      ∧ (due = true → exec (.arrayTimeout left) s = .next { s with
          port := Port.arbitrate { s.port with access := none }
          diag := { s.diag with data := 0xFFFF#16, status := .timeout } })
      ∧ (due = false → exec (.arrayTimeout left) s = .next s))
    ∧ (s.port.access = none →
      exec (.arrayAccessComplete ad) s = .next s ∧ exec (.arrayTimeout left) s = .next s)
  )

/-! ### Engine commands -/

/-- A code that names no command is refused with RANGE. A named command whose state condition does not hold is refused
with STATE, and RECOVER_RETRY and JOURNAL_DISCARD with BUSY while a discard write is outstanding; a refused command
has no effect. RECOVER_RETRY in BLOCKED takes the engine to RECOVERING with the recovery registers cleared and the
read of journal word 0 requested. JOURNAL_DISCARD requests the write of EMPTY to word 0 and stays BLOCKED with its
cause. -/
def Obligations.RecoveryAndRefusedCommands : Prop :=
  (
  ∀ (code : Word) (s : State), framesSeen s →
    (code.toNat = 0 ∨ 8 ≤ code.toNat → exec (.unnamedEcmdCode code []) s = .next (refusedFrame .range 0#16 s))
    ∧ ((∀ p i, s.engine.state ≠ .faulted p i) → exec (.retry []) s = .next (refusedFrame .state 0#16 s))
    ∧ ((∀ i, s.engine.state ≠ .faulted .copying i) → exec (.abandonHead []) s = .next (refusedFrame .state 0#16 s))
    ∧ (s.engine.state.isRecovering = true ∨ s.engine.state.isBlocked = true →
        exec (.stageClear []) s = .next (refusedFrame .state 0#16 s))
    ∧ (s.engine.state.isBlocked = false →
        exec (.recoverRetry []) s = .next (refusedFrame .state 0#16 s)
        ∧ exec (.journalDiscard []) s = .next (refusedFrame .state 0#16 s))
    ∧ (∀ c, s.engine.state = .blocked c true →
        exec (.recoverRetry []) s = .next (refusedFrame .busy 0#16 s)
        ∧ exec (.journalDiscard []) s = .next (refusedFrame .busy 0#16 s))
  )
  ∧
  (
  ∀ (s : State) (c : BlockCause), framesSeen s → s.engine.state = .blocked c false → engineSound s →
    (∃ t, exec (.recoverRetry []) s = .next (acceptedFrame 0#16 s t)
      ∧ t = { s with
          engine := { s.engine with
            state := .recovering .marker, rseq := 0#16, rdom := 0#16, rtag := 0#16, rcnt := 0#16 }
          port := t.port }
      ∧ engineOutstanding t.port = some ⟨.read, BitVec.ofNat 20 (journalBase s.straps), 0#16, Lanes.both⟩)
    ∧ (∃ t, exec (.journalDiscard []) s = .next (acceptedFrame 0#16 s t)
      ∧ t = { s with engine := { s.engine with state := .blocked c true }, port := t.port }
      ∧ engineOutstanding t.port = some ⟨.write, BitVec.ofNat 20 (journalBase s.straps), 0x0000#16, Lanes.both⟩)
  )

/-- HOLD_ON sets HOLD and nothing else. HOLD_OFF clears it; where the engine is IDLE with a group queued, and not in
power-low with the journal off, it begins the head group: COPYING at record 0, or HOMING with the journal off. RETRY
in FAULTED restarts the faulted phase from its first write: record 0 word 0, header word 1, home record 0, or the
EMPTY marker; the first access of the phase is requested. The queue, the flags and the entries stay, and an access held for
space or a slot goes on waiting. -/
def Obligations.HoldAndRetryCommands : Prop :=
  (
  ∀ s : State, framesSeen s →
    exec (.holdOn []) s = .next (acceptedFrame 0#16 s { s with engine := { s.engine with hold := true } })
    ∧ (s.engine.state ≠ .idle ∨ s.queue = [] ∨ (s.power.low = true ∧ journalOn s.straps = false)
          ∨ s.engine.hold = false →
        exec (.holdOff []) s = .next (acceptedFrame 0#16 s { s with engine := { s.engine with hold := false } }))
    ∧ (s.engine.state = .idle → s.queue ≠ [] → (s.power.low = false ∨ journalOn s.straps = true) →
        s.engine.hold = true → waitingSound s → engineSound s →
        ∃ t, exec (.holdOff []) s = .next (acceptedFrame 0#16 s t)
          ∧ t = { s with engine := { s.engine with hold := false, state := firstPhase s.straps }, port := t.port }
          ∧ engineOutstanding t.port = engineRequest t ∧ engineRequest t ≠ none)
  )
  ∧
  (
  ∀ (s : State) (p : Phase) (i : Nat), framesSeen s → s.engine.state = .faulted p i → waitingSound s → engineSound s →
    ∃ t, exec (.retry []) s = .next (acceptedFrame 0#16 s t)
      ∧ t = { s with engine := t.engine, port := t.port }
      ∧ t.engine = { s.engine with state :=
          match p with
          | .copying => .copying 0 0
          | .marking => .marking 1
          | .homing => .homing 0
          | .clearing => .clearing }
      ∧ engineOutstanding t.port = engineRequest t ∧ engineRequest t ≠ none
  )

/-- ABANDON_HEAD in FAULTED with the phase COPYING discards the head: its record leaves the queue and its entries are
free; a commit held for sync on it completes without a flag or a drop; LASTTAG, APPLIEDTAG and every counter stay; the
engine goes to IDLE, or begins the next head. A staged write held for space is then examined. No slot goes to anyone where
no commit waits for one and no auto-commit is pending. -/
def Obligations.AbandonHeadDiscardsTheHead : Prop :=
  ∀ (s : State) (i : Nat) (g : GroupRecord) (rest : List GroupRecord), framesSeen s → noneAgain s →
    s.engine.state = .faulted .copying i → s.queue = g :: rest →
    (∀ d, (s.domains.get d).autoPending = false) → engineSound s → storeSound s →
    ∃ t, t.queue = rest ∧ t.domains = s.domains ∧ t.mgmt = s.mgmt ∧ sameSettings s t
      ∧ freeCount t = freeCount s + g.entries.length
      ∧ t.store.flow = flowReleased s g.entries.length
      ∧ t.engine = { s.engine with state := if rest ≠ [] ∧ mayBegin s then firstPhase s.straps else .idle }
      ∧ engineOutstanding t.port = engineRequest t
      ∧ t.host = { s.host with port := t.host.port }
      ∧ (∀ p d, s.host.port = .inProgress p → p.hold = .sync d → g.sync = true → t.host.port = quietEnd p.ended)
      ∧ ((∀ p d, s.host.port = .inProgress p → p.hold = .sync d → g.sync = false) → t.host = s.host)
      ∧ (noneWaiting s → exec (.abandonHead []) s = .next (acceptedFrame 0#16 s t))
      ∧ ∀ p d a l w, heldWrite s p d a l w → domainSound s.straps (s.domains.get d) →
          exec (.abandonHead []) s = .next (acceptedFrame 0#16 s (examinedWrite t d a l w (quietEnd p.ended)))

/-- STAGE_CLEAR: every OPEN or closing domain breaks with cause CLEAR, the others keep their state; every record but a head
in flight or faulted leaves the queue; the engine, its HOLD and SEQ stay; the free count rises by all entries given up.
BROKEN is set and GROUPS_BROKEN rises where a domain breaks. An access in progress goes on, but: a staged write held in OPEN
is dropped with cause BROKEN, one held in EMPTY is examined after the discards; a commit held for a slot is dropped with
cause BROKEN and its domain goes to EMPTY; a commit held for sync completes where its record is discarded. -/
def Obligations.StageClearDiscards : Prop :=
  ∀ s : State, framesSeen s → noneAgain s → s.engine.state.isRecovering = false → s.engine.state.isBlocked = false →
    (∀ d, domainSound s.straps (s.domains.get d)) → storeSound s →
    ∃ t, (∀ d, t.domains.get d =
          if (s.domains.get d).state = .opened ∨ (s.domains.get d).closing = true then
            brokenBy .clear (s.domains.get d)
          else s.domains.get d)
      ∧ t.queue = (if s.engine.state.inFlight then s.queue.take 1 else [])
      ∧ t.engine = s.engine ∧ t.port = s.port ∧ t.host = s.host ∧ sameSettings s t
      ∧ freeCount t = 512 - queuedEntries t.queue
      ∧ t.store.flow = flowReleased s (freeCount t - freeCount s)
      ∧ t.mgmt = { s.mgmt with flags := t.mgmt.flags, counters := t.mgmt.counters }
      ∧ (t.flag .broken = (s.flag .broken
          || Ix4.all.any (fun d => (s.domains.get d).state == .opened || (s.domains.get d).closing)))
      ∧ (∀ f, f ≠ .broken → t.flag f = s.flag f)
      ∧ (∀ k, k ≠ .groupsBroken → t.mgmt.counters.get k = s.mgmt.counters.get k)
      ∧ (t.mgmt.counters.get .groupsBroken).toNat = min 65535 ((s.mgmt.counters.get .groupsBroken).toNat
          + (Ix4.all.filter (fun d => (s.domains.get d).state == .opened || (s.domains.get d).closing)).length)
      ∧ ((∀ p, s.host.port ≠ .inProgress p) → exec (.stageClear []) s = .next (acceptedFrame 0#16 s t))
      ∧ ∀ p, s.host.port = .inProgress p →
          (p.hold = .plainRead ∨ p.hold = .passWrite ∨ (∃ d, p.hold = .mergeRead d)
              ∨ (∃ d, p.hold = .sync d ∧ ∀ g ∈ s.queue.drop t.queue.length, g.sync = false) →
            exec (.stageClear []) s = .next (acceptedFrame 0#16 s t))
          ∧ (∀ d, p.hold = .sync d →
              (∃ g ∈ s.queue.drop t.queue.length, g.sync = true) →
            exec (.stageClear []) s = .next (acceptedFrame 0#16 s
              { t with host := { t.host with port := quietEnd p.ended } }))
          ∧ (∀ d tag, heldCommit s p d tag →
            exec (.stageClear []) s = .next (acceptedFrame 0#16 s { t with
              domains := t.domains.set d { t.domains.get d with state := .empty }
              host := { t.host with port := quietEnd p.ended, dropcause := .broken }
              mgmt := t.mgmt.noted [.dropped] [.writesDropped] }))
          ∧ (∀ d a l w, heldWrite s p d a l w → (s.domains.get d).state = .opened →
            exec (.stageClear []) s = .next (acceptedFrame 0#16 s { t with
              host := { t.host with port := quietEnd p.ended, dropcause := .broken }
              mgmt := t.mgmt.noted [.dropped] [.writesDropped] }))
          ∧ (∀ d a l w, heldWrite s p d a l w → (s.domains.get d).state = .empty → (s.domains.get d).closing = false →
            exec (.stageClear []) s
              = .next (acceptedFrame 0#16 s (examinedWrite t d a l w (quietEnd p.ended))))

/-! ### Classification -/

/-- The class of an address, by the first condition that holds: the commit cell of an enabled domain (distinct cells),
the outside area, the reserved area, the lowest-numbered enabled window whose pages hold the address, the hash action
where the page's position is set, the default action. -/
def Obligations.ClassificationOrder : Prop :=
  ∀ (s : State) (a : Addr) (page : Nat), page = a.toNat / 256 →
    (∀ d, cellsDistinct s → (s.domains.get d).enabled = true → (s.domains.get d).cell = a →
      classify s a = .commitCell d)
    ∧ ((∀ d, (s.domains.get d).enabled = true → (s.domains.get d).cell ≠ a) →
      (arrayWords s.straps ≤ a.toNat → classify s a = .outside)
      ∧ (a.toNat < arrayWords s.straps → journalBase s.straps ≤ a.toNat → classify s a = .reserved)
      ∧ (a.toNat < journalBase s.straps →
        (∀ i : Fin 16, s.cl.windows[i].enable = true →
          s.cl.windows[i].base.toNat ≤ page → page ≤ s.cl.windows[i].limit.toNat →
          (∀ j : Fin 16, j < i → ¬(s.cl.windows[j].enable = true
            ∧ s.cl.windows[j].base.toNat ≤ page ∧ page ≤ s.cl.windows[j].limit.toNat)) →
          classify s a = match s.cl.windows[i].kind with
            | .pass => .pass
            | .stage => .stage s.cl.windows[i].domain
            | .deny => .deny)
        ∧ ((∀ i : Fin 16, ¬(s.cl.windows[i].enable = true
              ∧ s.cl.windows[i].base.toNat ≤ page ∧ page ≤ s.cl.windows[i].limit.toNat)) →
          ∀ pos : Nat, pos = (page / 64) ^^^ (page % 64) →
            ((∀ k : Ix4, k.toNat = pos / 16 → (s.cl.hset.get k).getLsbD (pos % 16) = true →
              classify s a = match s.cl.hashKind with
                | .stage => .stage s.cl.hashDomain
                | .deny => .deny)
            ∧ (∀ k : Ix4, k.toNat = pos / 16 → (s.cl.hset.get k).getLsbD (pos % 16) = false →
              classify s a = match s.cl.defact with
                | .pass => .pass
                | .deny => .deny)))))

/-! ### Host accesses -/

/-- A write that its class drops is dropped at arrival with BLOCKED while the engine is BLOCKED, else POWER in
power-low, else the cause of its class: DROPCAUSE, WRITES_DROPPED and the DROPPED flag record it, it is not
parity-checked, and nothing else but the Host Port changes. -/
def Obligations.WritesDroppedByClass : Prop :=
  ∀ (s : State) (bus : HostBus) (cause : DropCause), ready s → isWrite bus →
    ((s.engine.state.isBlocked = true ∧ cause = .blocked)
      ∨ (s.engine.state.isBlocked = false ∧ s.power.low = true ∧ cause = .power)
      ∨ (s.engine.state.isBlocked = false ∧ s.power.low = false
        ∧ ((classify s bus.ha = .outside ∧ cause = .unmapped) ∨ (classify s bus.ha = .reserved ∧ cause = .unmapped)
          ∨ (classify s bus.ha = .deny ∧ cause = .deny)
          ∨ (∃ d, classify s bus.ha = .stage d ∧ (s.domains.get d).state = .off ∧ cause = .domainOff)))) →
    exec (.hostAccessArrival bus) s = .next { s with
      host := { s.host with port := .ending, dropcause := cause }
      mgmt := s.mgmt.noted [.dropped] [.writesDropped] }

/-- A zero-lane write and a malformed access complete at once with no effect, and a read of the reserved or the
outside area is answered with 0x0000 without an array access. Signals asserted at a port in DRIVING or ENDING, or under an
access whose strobes have not ended, are no arrival and change nothing. While the engine is RECOVERING every access is
captured and held, not classified and not counted, with its hold timer at 0; with HPAR = 0 the parity bits are not
captured. -/
def Obligations.AccessesThatNeedNoArray : Prop :=
  (
  ∀ (s : State) (bus : HostBus),
    (ready s → bus.hwe = true ∧ (bus.hoe = true ∨ bus.hbe.isEmpty = true) →
      exec (.hostAccessArrival bus) s = .next { s with host := { s.host with port := .ending } })
    ∧ (ready s → isRead bus → classify s bus.ha = .reserved ∨ classify s bus.ha = .outside →
      exec (.hostAccessArrival bus) s = .next { s with host := { s.host with port := .driving 0#16 } })
    ∧ (s.host.port ≠ .idle → (∀ p, s.host.port = .inProgress p → p.ended = false) →
      exec (.hostAccessArrival bus) s = .next s)
  )
  ∧
  (
  ∀ (s : State) (bus : HostBus) (a : Access), s.host.port = .idle → s.engine.state.isRecovering = true →
    ((bus.hwe = true ∧ bus.hoe = true ∧ a = .malformed)
      ∨ (bus.hwe = true ∧ bus.hoe = false
          ∧ a = capturedWrite s bus)
      ∨ (bus.hwe = false ∧ bus.hoe = true ∧ a = .read bus.ha)) →
    exec (.hostAccessArrival bus) s = .next { s with
      host := { s.host with port := heldNow a .recovery } }
  )

/-- A read that needs the array is held for it, and one read of its address in both lanes is requested: of class PASS,
DENY or COMMIT-CELL(d) always, of STAGE(d) with d OFF always, of STAGE(d) enabled where the store leaves a lane
uncovered. At an idle port with nothing waiting the access begins at once. ARDY completes the host's read: a plain
read takes the word of the array (or the word that AD carries); a merge read takes each lane that the store covers at
that moment from the store, the other from the array, and FORWARD_HITS rises where the store covers one. The port
arbitrates. -/
def Obligations.HostReadsOfTheArray : Prop :=
  (
  ∀ (s : State) (bus : HostBus) (h : Hold), ready s → isRead bus →
    ((h = .plainRead ∧ (classify s bus.ha = .pass ∨ classify s bus.ha = .deny
        ∨ (∃ d, classify s bus.ha = .commitCell d)
        ∨ ∃ d, classify s bus.ha = .stage d ∧ (s.domains.get d).state = .off))
      ∨ (∃ d, h = .mergeRead d ∧ classify s bus.ha = .stage d ∧ (s.domains.get d).state ≠ .off
          ∧ (storeLane s d bus.ha false = none ∨ storeLane s d bus.ha true = none))) →
    ∃ t, exec (.hostAccessArrival bus) s = .next t
      ∧ t = { s with port := t.port, host := { s.host with port := heldNow (.read bus.ha) h } }
      ∧ (s.port.access = none → s.port.engineReq = none → t.port.access
          = some ⟨.host, ⟨.read, bus.ha, 0#16, Lanes.both⟩, 0, false⟩ ∧ t.port.hostReq = none)
      ∧ (∀ b, s.port.access = some b →
          t.port = { s.port with hostReq := some ⟨.read, bus.ha, 0#16, Lanes.both⟩ })
  )
  ∧
  (
  ∀ (s : State) (ad : Option Word) (p : Progress) (r : Request) (n : Nat) (due : Bool) (a : Addr) (w : Word),
    s.host.port = .inProgress p → p.access = .read a → r = ⟨.read, a, 0#16, Lanes.both⟩ →
    s.port.access = some ⟨.host, r, n, due⟩ → noneAgain s → w = ad.getD (Memory.word s.array a) →
    (p.hold = .plainRead →
      exec (.arrayAccessComplete ad) s = .next { s with
        port := Port.arbitrate { s.port with access := none }
        host := { s.host with port := readEnd p.ended w } })
    ∧ ∀ d, p.hold = .mergeRead d →
      exec (.arrayAccessComplete ad) s = .next { s with
        port := Port.arbitrate { s.port with access := none }
        host := { s.host with
          port := readEnd p.ended (((storeLane s d a true).getD w.lane1) ++ ((storeLane s d a false).getD w.lane0)) }
        mgmt := if storeLane s d a true = none ∧ storeLane s d a false = none then s.mgmt
          else s.mgmt.noted [] [.forwardHits] }
  )

/-- A read of STAGE(d), d enabled, that the store covers in both lanes completes at once with the word of the newest
groups, without an array access, and FORWARD_HITS rises by one. The lookup takes a lane from the open group of d where
its entry at the address holds the lane, else from the newest queued group of d whose entry holds it; groups of other
domains play no part. -/
def Obligations.ForwardedReadsAndLookupOrder : Prop :=
  (
  ∀ (s : State) (bus : HostBus) (d : Dom) (lo hi : Byte), ready s → isRead bus → classify s bus.ha = .stage d →
    (s.domains.get d).state ≠ .off → storeLane s d bus.ha false = some lo → storeLane s d bus.ha true = some hi →
    exec (.hostAccessArrival bus) s = .next { s with
      host := { s.host with port := .driving (hi ++ lo) }
      mgmt := s.mgmt.noted [] [.forwardHits] }
  )
  ∧
  (
  ∀ (s : State) (d : Dom) (a : Addr) (lane1 : Bool) (b : Byte),
    (∀ e ∈ (s.domains.get d).group, addressesDistinct (s.domains.get d).group → e.addr = a →
      (if lane1 then e.lanes.lane1 else e.lanes.lane0) = true →
      storeLane s d a lane1 = some (if lane1 then e.data.lane1 else e.data.lane0))
    ∧ ((∀ e ∈ (s.domains.get d).group, e.addr = a → (if lane1 then e.lanes.lane1 else e.lanes.lane0) = false) →
      ∀ (older newer : List GroupRecord) (g : GroupRecord) (e : Entry),
        s.queue = older ++ g :: newer → g.domain = d → e ∈ g.entries → addressesDistinct g.entries → e.addr = a →
        (if lane1 then e.lanes.lane1 else e.lanes.lane0) = true →
        (∀ n ∈ newer, n.domain = d → ∀ f ∈ n.entries, f.addr = a →
          (if lane1 then f.lanes.lane1 else f.lanes.lane0) = false) →
        storeLane s d a lane1 = some (if lane1 then e.data.lane1 else e.data.lane0))
    ∧ (storeLane s d a lane1 = some b →
        (∃ e ∈ (s.domains.get d).group, e.addr = a) ∨ ∃ g ∈ s.queue, g.domain = d ∧ ∃ e ∈ g.entries, e.addr = a)
  )

/-- A staged write of good parity to a domain in EMPTY or OPEN that holds no entry at its address and stands below its
ceiling, in FLOWING, takes a new entry at the end of the group: the domain is OPEN, WRITES_STAGED rises, the counter
is loaded or reloaded as the age mode says, and the store throttles where the free count has come to STALLLVL. A
staged write of good parity to an address its OPEN group holds coalesces, in THROTTLED too and at the ceiling too: its
enabled lanes are replaced and added to the mask, nothing else of the entry changes, COALESCED rises, and in IDLE mode
the counter is reloaded. -/
def Obligations.StagedWritesTaken : Prop :=
  (
  ∀ (s : State) (bus : HostBus) (d : Dom), writesTaken s → isWrite bus → parityGood s bus →
    classify s bus.ha = .stage d → takesWrites s d →
    ((s.domains.get d).state = .opened →
      (∀ e ∈ (s.domains.get d).group, e.addr ≠ bus.ha) ∧ (s.domains.get d).group.length < (s.domains.get d).ceil.toNat) →
    s.store.flow = .flowing →
    exec (.hostAccessArrival bus) s = .next (tookEntry s d bus.ha bus.hbe bus.hd .ending)
  )
  ∧
  (
  ∀ (s : State) (bus : HostBus) (d : Dom), writesTaken s → isWrite bus → parityGood s bus →
    classify s bus.ha = .stage d → (s.domains.get d).state = .opened →
    (∃ e ∈ (s.domains.get d).group, e.addr = bus.ha) →
    exec (.hostAccessArrival bus) s = .next { s with
      domains := s.domains.set d { s.domains.get d with
        group := (s.domains.get d).group.map (fun e =>
          if e.addr = bus.ha then
            ⟨e.addr, ⟨e.lanes.lane0 || bus.hbe.lane0, e.lanes.lane1 || bus.hbe.lane1⟩,
              (if bus.hbe.lane1 then bus.hd.lane1 else e.data.lane1)
                ++ (if bus.hbe.lane0 then bus.hd.lane0 else e.data.lane0)⟩
          else e)
        age := (ageAfterWrite s d).1
        ageDue := (ageAfterWrite s d).2 }
      host := { s.host with port := .ending }
      mgmt := s.mgmt.noted [] [.coalesced] }
  )

/-- A staged write that finds its OPEN group at the ceiling breaks the domain with cause CEILING, in THROTTLED too,
and is dropped with cause BROKEN; one to a BROKEN domain is dropped with cause BROKEN and changes no domain. A staged
write that needs a new entry in THROTTLED is held while drain is pending: it takes no entry and the domain keeps its
state. Where drain is not pending its domain breaks with cause STORE_FULL and the write is dropped with cause BROKEN.
-/
def Obligations.StagedWritesThatBreakOrWait : Prop :=
  (
  ∀ (s : State) (bus : HostBus) (d : Dom), writesTaken s → isWrite bus → parityGood s bus →
    classify s bus.ha = .stage d →
    ((s.domains.get d).state = .opened → (∀ e ∈ (s.domains.get d).group, e.addr ≠ bus.ha) →
      (s.domains.get d).ceil.toNat ≤ (s.domains.get d).group.length → storeSound s →
      exec (.hostAccessArrival bus) s = .next (brokeAndDropped s d .ceiling [] .ending))
    ∧ ((s.domains.get d).state = .broken →
      exec (.hostAccessArrival bus) s = .next { s with
        host := { s.host with port := .ending, dropcause := .broken }
        mgmt := s.mgmt.noted [.dropped] [.writesDropped] })
  )
  ∧
  (
  ∀ (s : State) (bus : HostBus) (d : Dom), writesTaken s → isWrite bus → parityGood s bus →
    classify s bus.ha = .stage d → takesWrites s d → s.store.flow = .throttled →
    ((s.domains.get d).state = .opened →
      (∀ e ∈ (s.domains.get d).group, e.addr ≠ bus.ha) ∧ (s.domains.get d).group.length < (s.domains.get d).ceil.toNat) →
    (s.queue ≠ [] → (∀ p i, s.engine.state ≠ .faulted p i) →
      exec (.hostAccessArrival bus) s = .next { s with
        host := { s.host with port := heldNow (capturedWrite s bus) (.storeSpace d) } })
    ∧ (s.queue = [] ∨ (∃ p i, s.engine.state = .faulted p i) → storeSound s →
        (∀ e, domainSound s.straps (s.domains.get e)) →
      exec (.hostAccessArrival bus) s = .next (brokeAndDropped s d .storeFull [] .ending))
  )

/-- A write of bad parity in an enabled lane is dropped with cause PARITY with the PARITY flag set: of class PASS
without an array access; of STAGE(d), and of COMMIT-CELL(d) in both lanes, breaking d with cause PARITY from EMPTY or
OPEN and leaving a BROKEN d as it is. A commit-cell write of one lane is dropped with cause FORMAT whatever its
parity; it breaks an OPEN domain with cause FORMAT and leaves an EMPTY or BROKEN one. -/
def Obligations.WritesOfBadParityOrOneLane : Prop :=
  (
  ∀ (s : State) (bus : HostBus), writesTaken s → isWrite bus → ¬parityGood s bus →
    (classify s bus.ha = .pass →
      exec (.hostAccessArrival bus) s = .next { s with
        host := { s.host with port := .ending, dropcause := .parity }
        mgmt := s.mgmt.noted [.parity, .dropped] [.writesDropped] })
    ∧ ∀ d, classify s bus.ha = .stage d ∨ (classify s bus.ha = .commitCell d ∧ bus.hbe = Lanes.both) →
      ((s.domains.get d).state = .broken →
        exec (.hostAccessArrival bus) s = .next { s with
          host := { s.host with port := .ending, dropcause := .parity }
          mgmt := s.mgmt.noted [.parity, .dropped] [.writesDropped] })
      ∧ (takesWrites s d → storeSound s → domainSound s.straps (s.domains.get d) →
        exec (.hostAccessArrival bus) s = .next { s with
          domains := s.domains.set d (brokenBy .parity (s.domains.get d))
          store := { s.store with flow := flowReleased s (s.domains.get d).group.length }
          host := { s.host with port := .ending, dropcause := .parity }
          mgmt := s.mgmt.noted [.broken, .parity, .dropped] [.groupsBroken, .writesDropped] })
  )
  ∧
  (
  ∀ (s : State) (bus : HostBus) (d : Dom), writesTaken s → isWrite bus → bus.hbe ≠ Lanes.both →
    classify s bus.ha = .commitCell d →
    ((s.domains.get d).state = .empty ∨ (s.domains.get d).state = .broken →
      exec (.hostAccessArrival bus) s = .next { s with
        host := { s.host with port := .ending, dropcause := .format }
        mgmt := s.mgmt.noted [.dropped] [.writesDropped] })
    ∧ ((s.domains.get d).state = .opened → storeSound s →
      exec (.hostAccessArrival bus) s = .next { s with
        domains := s.domains.set d (brokenBy .format (s.domains.get d))
        store := { s.store with flow := flowReleased s (s.domains.get d).group.length }
        host := { s.host with port := .ending, dropcause := .format }
        mgmt := s.mgmt.noted [.broken, .dropped] [.groupsBroken, .writesDropped] })
  )

/-- A pass-through write of good parity is held for the array and requests one write of its address, data and lanes;
when ARDY completes it, it completes and the array holds it in those lanes. That an ARDY means that the write was stored
is the model's (notes/assumptions/3.md and 13.md). -/
def Obligations.PassThroughWrites : Prop :=
  (∀ (s : State) (bus : HostBus), writesTaken s → isWrite bus → parityGood s bus → classify s bus.ha = .pass →
    ∃ t, exec (.hostAccessArrival bus) s = .next t
      ∧ t = { s with port := t.port, host := { s.host with port := heldNow (capturedWrite s bus) .passWrite } }
      ∧ (s.port.access = none → s.port.engineReq = none →
          t.port.access = some ⟨.host, ⟨.write, bus.ha, bus.hd, bus.hbe⟩, 0, false⟩ ∧ t.port.hostReq = none)
      ∧ (∀ b, s.port.access = some b → t.port = { s.port with hostReq := some ⟨.write, bus.ha, bus.hd, bus.hbe⟩ }))
  ∧ ∀ (s : State) (ad : Option Word) (p : Progress) (r : Request) (n : Nat) (due : Bool),
      arrayCanonical s → noneAgain s → s.host.port = .inProgress p → p.hold = .passWrite → r.kind = .write →
      s.port.access = some ⟨.host, r, n, due⟩ →
      ∃ t, exec (.arrayAccessComplete ad) s = .next t
        ∧ t = { s with array := t.array, port := t.port, host := { s.host with port := quietEnd p.ended } }
        ∧ (r.lanes.lane0 = true → (Memory.word t.array r.addr).lane0 = r.data.lane0)
        ∧ (r.lanes.lane1 = true → (Memory.word t.array r.addr).lane1 = r.data.lane1)

/-- A commit that finds EMPTY or OPEN and a free slot queues the group (tag-only from EMPTY): the record takes SEQ,
the domain, the tag, the commit cell and the entries, SEQ rises, LASTTAG takes the tag, GROUPS_COMMITTED rises, the
domain is EMPTY. With the sync option on the commit stays held and the record carries the sync-waiter flag, else it
completes. An engine in IDLE with HOLD clear begins the group. -/
def Obligations.CommitQueuesTheGroup : Prop :=
  ∀ (s : State) (bus : HostBus) (d : Dom), writesTaken s → isWrite bus → bus.hbe = Lanes.both → parityGood s bus →
    classify s bus.ha = .commitCell d → bus.hd ≠ s.abortval → takesWrites s d → s.queue.length < 32 → engineSound s →
    ∃ t, exec (.hostAccessArrival bus) s = .next t
      ∧ t = { s with
          queue := s.queue ++ [recordOf s d bus.hd (s.domains.get d).sync]
          domains := s.domains.set d (emptied (s.domains.get d) bus.hd)
          engine := { s.engine with
            seq := s.engine.seq + 1#16
            state := if s.engine.state = .idle ∧ s.engine.hold = false then firstPhase s.straps else s.engine.state }
          host := { s.host with port :=
            if (s.domains.get d).sync then heldNow (capturedWrite s bus) (.sync d)
            else .ending }
          mgmt := s.mgmt.noted [] [.groupsCommitted]
          port := t.port }
      ∧ engineOutstanding t.port = engineRequest t

/-- A commit that finds the queue holding 32 groups is held with closing set and pending cleared while drain is
pending, the counter stopped at its value. Where drain is not pending the domain breaks with cause QUEUE_FULL, the
commit is dropped with cause BROKEN and the domain goes to EMPTY. An abort takes OPEN to EMPTY with its entries
released, leaves EMPTY, takes BROKEN to EMPTY, and is no drop and no break. A commit to BROKEN is dropped with cause
BROKEN and takes the domain to EMPTY, whatever the queue holds. -/
def Obligations.CommitCellWritesThatDoNotQueue : Prop :=
  (
  ∀ (s : State) (bus : HostBus) (d : Dom), writesTaken s → isWrite bus → bus.hbe = Lanes.both → parityGood s bus →
    classify s bus.ha = .commitCell d → bus.hd ≠ s.abortval → takesWrites s d → s.queue.length = 32 →
    ((∀ p i, s.engine.state ≠ .faulted p i) →
      exec (.hostAccessArrival bus) s = .next { s with
        domains := s.domains.set d { s.domains.get d with closing := true, autoPending := false, ageDue := false }
        host := { s.host with port := heldNow (capturedWrite s bus) (.queueSlot d bus.hd) } })
    ∧ ((∃ p i, s.engine.state = .faulted p i) → storeSound s → domainSound s.straps (s.domains.get d) →
      exec (.hostAccessArrival bus) s = .next (commitBrokeAndDropped s d .queueFull [] .ending))
  )
  ∧
  (
  ∀ (s : State) (bus : HostBus) (d : Dom), writesTaken s → isWrite bus → bus.hbe = Lanes.both → parityGood s bus →
    classify s bus.ha = .commitCell d →
    (bus.hd = s.abortval → (s.domains.get d).state = .opened → storeSound s →
      exec (.hostAccessArrival bus) s = .next { s with
        domains := s.domains.set d { s.domains.get d with
          state := .empty, autoPending := false, group := [], age := 0#16, ageDue := false }
        store := { s.store with flow := flowReleased s (s.domains.get d).group.length }
        host := { s.host with port := .ending } })
    ∧ (bus.hd = s.abortval → (s.domains.get d).state = .empty →
      exec (.hostAccessArrival bus) s = .next { s with host := { s.host with port := .ending } })
    ∧ (bus.hd = s.abortval → (s.domains.get d).state = .broken →
      exec (.hostAccessArrival bus) s = .next { s with
        domains := s.domains.set d { s.domains.get d with state := .empty }
        host := { s.host with port := .ending } })
    ∧ (bus.hd ≠ s.abortval → (s.domains.get d).state = .broken →
      exec (.hostAccessArrival bus) s = .next { s with
        domains := s.domains.set d { s.domains.get d with state := .empty }
        host := { s.host with port := .ending, dropcause := .broken }
        mgmt := s.mgmt.noted [.dropped] [.writesDropped] })
  )

/-- The Host Port returns to IDLE from DRIVING and ENDING, and stays as it is in IDLE and IN PROGRESS. Strobes that end early
mark the access in progress, and change nothing in every other state. Such an access goes on by the same rules, and its
completion leaves the port in IDLE. Signals asserted again under it are no arrival; they stand until they end, and the
return to IDLE is then the arrival of their levels. That this arrival comes after every other effect of the step, and that
the other two events change nothing where nothing ends, is the model's inference (notes/assumptions/20.md and 9.md).
In DRIVING the part drives the read word with, under HPAR = 1, the bit that makes each lane odd, and under HPAR = 0
both bits low; in every other state it drives nothing, and HWAIT# is asserted exactly in IN PROGRESS. -/
def Obligations.HostPortEndsAndDrivenWord : Prop :=
  (
  ∀ (s : State) (w : Word) (p : Progress) (bus : HostBus),
    (s.host.port = .driving w ∨ s.host.port = .ending →
      exec .hostPortReturnIdle s = .next { s with host := { s.host with port := .idle } }
      ∧ exec .hostStrobesEndEarly s = .next s)
    ∧ (s.host.port = .idle → exec .hostPortReturnIdle s = .next s ∧ exec .hostStrobesEndEarly s = .next s)
    ∧ (s.host.port = .inProgress p →
      exec .hostPortReturnIdle s = .next s
      ∧ exec .hostStrobesEndEarly s = .next (withAgain none (endedEarly s))
      ∧ (p.ended = true → bus.hwe = true ∨ bus.hoe = true →
        exec (.hostAccessArrival bus) s = .next (withAgain (some bus) s)))
  )
  ∧
  (
  ∀ (c : Instr) (s u : State) (p : Progress), s.host.port = .inProgress p → c.inside = [] →
    (∀ low early, c = .tick low early → early = []) → (∀ bus, c ≠ .hostAccessArrival bus) → c ≠ .hostStrobesEndEarly →
    (∀ st left held, c ≠ .reset st left held) → noneAgain s → exec c s = .next u →
      exec c (endedEarly s) = .next (endedEarly u)
      ∧ ∀ bus, p.ended = true →
        (u.host.port = .idle → exec c (withAgain (some bus) s) = exec (.hostAccessArrival bus) u)
        ∧ (u.host.port ≠ .idle → exec c (withAgain (some bus) s) = .next (withAgain (some bus) u))
  )
  ∧
  (
  (∀ b : Byte, (((List.range 8).filter (fun i => b.getLsbD i)).length + b.oddParity.toNat) % 2 = 1)
  ∧ ∀ (s : State) (w : Word),
    (s.host.port = .driving w →
      (s.straps.hpar = true → ∃ p : BitVec 2, s.hostDriven = some (w, p)
        ∧ p.getLsbD 0 = w.lane0.oddParity ∧ p.getLsbD 1 = w.lane1.oddParity)
      ∧ (s.straps.hpar = false → s.hostDriven = some (w, 0#2)))
    ∧ ((∀ v, s.host.port ≠ .driving v) → s.hostDriven = none)
    ∧ (s.hwaitAsserted = true ↔ ∃ p, s.host.port = .inProgress p)
  )

/-- A due hold-limit expiry sets the HOLD flag: a staged write held for space in THROTTLED breaks its domain with
cause HOLD and is dropped with cause BROKEN; so does a commit held for a slot, and its domain goes to EMPTY; a commit
held for sync completes and no record waits for it. That an expiry is due from its tick until it is taken, and that one not
due changes nothing, is the model's choice (notes/assumptions/8.md, 9.md and 22.md). -/
def Obligations.HoldLimitExpiries : Prop :=
  ∀ (s : State) (p : Progress), s.host.port = .inProgress p → noneAgain s →
    (p.due = false → exec .holdLimitExpiry s = .next s)
    ∧ (p.due = true → ∀ d a l w hdp, p.hold = .storeSpace d → p.access = .write a l w hdp → takesWrites s d →
        s.store.flow = .throttled → s.power.low = false → storeSound s →
        domainSound s.straps (s.domains.get d) →
      exec .holdLimitExpiry s = .next (brokeAndDropped s d .hold [.hold] (quietEnd p.ended)))
    ∧ (p.due = true → ∀ d tag, p.hold = .queueSlot d tag → takesWrites s d → s.queue.length = 32 →
        storeSound s → domainSound s.straps (s.domains.get d) →
      exec .holdLimitExpiry s = .next (commitBrokeAndDropped s d .hold [.hold] (quietEnd p.ended)))
    ∧ (p.due = true → ∀ d, p.hold = .sync d →
      exec .holdLimitExpiry s = .next { s with
        queue := s.queue.map (fun g => { g with sync := false })
        host := { s.host with port := quietEnd p.ended }
        mgmt := s.mgmt.noted [.hold] [] })

/-! ### Array port -/

/-- The arbiter's choice among the requests that wait: HP before AE while the starvation count is below STARVE, AE
from then on, MP alone, none leaves the port IDLE. The count rises, held at 15, where HP is granted with AE waiting,
and becomes 0 where AE is granted or not waiting. The requests not granted go on waiting. A write of STARVE takes 1 to
15 in every state, with the count as it was; any other value is refused with RANGE. -/
def Obligations.ArbitrationAndStarvation : Prop :=
  (
  ∀ (p : Port) (h e m : Request), p.access = none →
    (p.hostReq = some h → p.engineReq = some e → p.starveCount < p.starve.toNat →
      p.arbitrate = { p with
        access := some ⟨.host, h, 0, false⟩, hostReq := none, starveCount := min 15 (p.starveCount + 1) })
    ∧ (p.hostReq = some h → p.engineReq = some e → p.starve.toNat ≤ p.starveCount →
      p.arbitrate = { p with access := some ⟨.engine, e, 0, false⟩, engineReq := none, starveCount := 0 })
    ∧ (p.hostReq = some h → p.engineReq = none →
      p.arbitrate = { p with access := some ⟨.host, h, 0, false⟩, hostReq := none, starveCount := 0 })
    ∧ (p.hostReq = none → p.engineReq = some e →
      p.arbitrate = { p with access := some ⟨.engine, e, 0, false⟩, engineReq := none, starveCount := 0 })
    ∧ (p.hostReq = none → p.engineReq = none → p.mgmtReq = some m →
      p.arbitrate = { p with access := some ⟨.mgmt, m, 0, false⟩, mgmtReq := none, starveCount := 0 })
    ∧ (p.hostReq = none → p.engineReq = none → p.mgmtReq = none → p.arbitrate = { p with starveCount := 0 })
  )
  ∧
  (
  ∀ (data : Word) (s : State), framesSeen s →
    (data.toNat = 0 ∨ 15 < data.toNat →
      exec (.starveWrite data []) s = .next (refusedFrame .range s.port.starve s))
    ∧ (1 ≤ data.toNat → data.toNat ≤ 15 →
      exec (.starveWrite data []) s = .next (acceptedFrame s.port.starve s
        { s with port := { s.port with starve := data } }))
  )

/-- The array's contents change only where ARDY completes a write, in its word and its enabled lanes, and where a
write is cut short by a timeout (of its own row or taken within a tick) or a reset, in those lanes alone; every other lane of
the array reads as before. A frame changes them only by the events inside it. A store into the array is read back in its
lanes, leaves every other lane, and keeps the canonical form. That an ARDY means that the write was stored, and that a write
cut short leaves its other lanes and every other word alone, is the model's (notes/assumptions/3.md, 5.md and 13.md). -/
def Obligations.ArrayContents : Prop :=
  (
  (∀ (c : Instr) (s t : State), exec c s = .next t →
    (∀ ad, c ≠ .arrayAccessComplete ad) → (∀ l, c ≠ .arrayTimeout l) → (∀ st l held, c ≠ .reset st l held) →
    (∀ low l early, c = .tick low early → Expiry.array l ∉ early) → t.array = (afterInside c.inside s).array)
  ∧ ∀ (c : Instr) (s t : State), exec c s = .next t →
      (∃ ad, c = .arrayAccessComplete ad) ∨ (∃ l, c = .arrayTimeout l) ∨ (∃ st l held, c = .reset st l held)
        ∨ (∃ low early, c = .tick low early) →
      ∀ n : Nat, Memory.get t.array n = Memory.get s.array n
        ∨ ∃ a, s.port.access = some a ∧ a.request.kind = .write
            ∧ ((n = 2 * a.request.addr.toNat ∧ a.request.lanes.lane0 = true)
              ∨ (n = 2 * a.request.addr.toNat + 1 ∧ a.request.lanes.lane1 = true))
  )
  ∧
  (
  ∀ (m : List Host.Cell) (a : Addr) (l : Lanes) (w : Word), Memory.wf m = true →
    Memory.wf (Memory.store m a l w) = true
    ∧ (l.lane0 = true → Memory.get (Memory.store m a l w) (2 * a.toNat) = w.lane0)
    ∧ (l.lane1 = true → Memory.get (Memory.store m a l w) (2 * a.toNat + 1) = w.lane1)
    ∧ ∀ n, ¬(n = 2 * a.toNat ∧ l.lane0 = true) → ¬(n = 2 * a.toNat + 1 ∧ l.lane1 = true) →
        Memory.get (Memory.store m a l w) n = Memory.get m n
  )

/-- A due timeout of the host's access sets ARRAY and makes ARRSRC HOST: a read completes with 0xFFFF, a merge read
too and with no lane of the store and no forward hit, a pass-through write completes and is no drop. That a timeout is due
from its tick until it is taken is the model's choice (notes/assumptions/8.md). -/
def Obligations.HostAccessTimesOut : Prop :=
  ∀ (s : State) (left : Option Word) (p : Progress) (r : Request) (n : Nat),
    s.host.port = .inProgress p → s.port.access = some ⟨.host, r, n, true⟩ → noneAgain s →
    (p.hold = .plainRead ∨ (∃ d, p.hold = .mergeRead d) → r.kind = .read →
      exec (.arrayTimeout left) s = .next { s with
        port := Port.arbitrate { s.port with access := none, arrsrc := .host }
        host := { s.host with port := readEnd p.ended 0xFFFF#16 }
        mgmt := s.mgmt.noted [.array] [] })
    ∧ (p.hold = .passWrite → r.kind = .write →
      ∃ t, exec (.arrayTimeout left) s = .next t
        ∧ t = { s with
          array := t.array
          port := Port.arbitrate { s.port with access := none, arrsrc := .host }
          host := { s.host with port := quietEnd p.ended }
          mgmt := s.mgmt.noted [.array] [] }
        ∧ (left = none → t.array = s.array))

/-! ### Applying groups -/

/-- An access of an apply that ARDY completes takes the engine to the next word, record or phase: three words a
record, header words 1 to 7 and then 0, the records home, the EMPTY marker. The write is in the array, the next access
is requested, and the queue, the domains, the store, the host and the management port stay, so that an access held for space
or a slot goes on waiting. What the engine writes in
each place of an apply: word w of record i at journal base + 8 + 3i + w in both lanes, header word k at journal base +
k in both lanes, record i home at its own address in its own lanes, EMPTY at the journal base. The records are the
entries in arrival order with the tag flag clear, then the tag record. -/
def Obligations.ApplyStepsAndWrites : Prop :=
  (
  ∀ (s : State) (ad : Option Word) (g : GroupRecord) (rest : List GroupRecord) (a : ArrayAccess) (e : EngineState),
    s.port.access = some a → a.requester = .engine → s.queue = g :: rest → s.engine.state.inFlight = true →
    engineSound s → waitingSound s → phaseAfter (journalOn s.straps) g.entries.length s.engine.state = some e →
    ∃ t, exec (.arrayAccessComplete ad) s = .next t
      ∧ t = { s with
          engine := { s.engine with state := e }
          array := Memory.store s.array a.request.addr a.request.lanes a.request.data
          port := t.port }
      ∧ engineOutstanding t.port = engineRequest t
  )
  ∧
  (
  ∀ (s : State) (g : GroupRecord) (rest : List GroupRecord), s.queue = g :: rest →
    (∀ i w, s.engine.state = .copying i w → i ≤ g.entries.length → w < 3 →
      ∃ r, g.records[i]? = some r ∧ engineRequest s = some ⟨.write,
        BitVec.ofNat 20 (journalBase s.straps + (8 + 3 * i + w)), r.words.getD w 0#16, Lanes.both⟩)
    ∧ (∀ k, s.engine.state = .marking k → k ≤ 7 →
      engineRequest s = some ⟨.write, BitVec.ofNat 20 (journalBase s.straps + k), g.header.getD k 0#16, Lanes.both⟩)
    ∧ (∀ i, s.engine.state = .homing i → i ≤ g.entries.length →
      ∃ r, g.records[i]? = some r ∧ engineRequest s = some ⟨.write, r.addr, r.data, r.lanes⟩)
    ∧ (s.engine.state = .clearing →
      engineRequest s = some ⟨.write, BitVec.ofNat 20 (journalBase s.straps), 0x0000#16, Lanes.both⟩)
    ∧ (∀ (i : Nat) (e : Entry), g.entries[i]? = some e →
        g.records[i]? = some (⟨e.addr, e.lanes, e.data, false⟩ : JournalRecord))
    ∧ g.records[g.entries.length]? = some (⟨g.cell, Lanes.both, g.tag, true⟩ : JournalRecord)
    ∧ g.records.length = g.entries.length + 1
  )

/-- The words of a record and the header: their fields stand at the places of the journal layouts, and header words 6
and 7 are the checks of the record words and of header words 0 to 6. One bit of the check function as R117 gives it,
and the function as a fold of it over the words in order, bit 15 first, from 0xFFFF. -/
def Obligations.JournalLayoutsAndCheckFunction : Prop :=
  (
  (∀ r : JournalRecord, ∃ w0 w1 w2, r.words = [w0, w1, w2]
    ∧ w0 = r.addr.setWidth 16 ∧ w1.extractLsb' 0 4 = r.addr.extractLsb' 16 4
    ∧ w1.getLsbD 4 = r.lanes.lane0 ∧ w1.getLsbD 5 = r.lanes.lane1 ∧ w1.extractLsb' 6 9 = 0#9
    ∧ w1.getLsbD 15 = r.tag ∧ w2 = r.data)
  ∧ ∀ g : GroupRecord, g.entries.length < 512 →
    g.header.length = 8
    ∧ g.header.getD 0 0#16 = 0xC3A5#16 ∧ g.header.getD 1 0#16 = g.seq
    ∧ (g.header.getD 2 0#16).toNat = g.domain.toNat ∧ (g.header.getD 3 0#16).toNat = g.entries.length + 1
    ∧ g.header.getD 4 0#16 = g.tag ∧ g.header.getD 5 0#16 = 0#16
    ∧ g.header.getD 6 0#16 = crc (g.records.flatMap JournalRecord.words)
    ∧ g.header.getD 7 0#16 = crc (g.header.take 7)
  )
  ∧
  (
  (∀ (rem : Word) (b : Bool),
    (crcBit rem b).toNat = (if b = decide (32768 ≤ rem.toNat) then (2 * rem.toNat) % 65536
      else ((2 * rem.toNat) % 65536) ^^^ 0x1021))
  ∧ crc [] = 0xFFFF#16
  ∧ ∀ (ws : List Word) (w : Word),
      crc (ws ++ [w]) = (List.range 16).foldl (fun rem i => crcBit rem (w.getLsbD (15 - i))) (crc ws)
  )

/-- What the engine writes for a group, recovery accepts: the header and the record words of every group that fits the
journal and lies below its base pass every test of recovery, and recovery reads back the group's own records. -/
def Obligations.RecoveryAcceptsWhatTheEngineWrites : Prop :=
  ∀ (st : Straps) (g : GroupRecord), journalOn st = true → g.entries.length + 1 ≤ journalRecords st →
    g.cell.toNat < journalBase st → (∀ e ∈ g.entries, e.addr.toNat < journalBase st) →
    headerValid st g.header = true
    ∧ recordsValid st g.header g.words = true
    ∧ recordsOfWords g.words = g.records
    ∧ g.words.length = 3 * (wordAt g.header 3).toNat

/-- The last access of an apply retires the head: its record leaves the queue, its entries are free with one flow test,
APPLIEDTAG takes its tag, the APPLIED flag is set, GROUPS_APPLIED rises, a commit held for sync on it completes, and the
engine goes to IDLE or begins the next head. A staged write held for space is then examined: in FLOWING it is taken into a
new entry or breaks its group at the ceiling; in THROTTLED it stays held while a group is queued and otherwise breaks its
domain with cause STORE_FULL. Stated where no commit waits for a slot and no auto-commit is pending. -/
def Obligations.RetireOfTheHead : Prop :=
  ∀ (s : State) (ad : Option Word) (g : GroupRecord) (rest : List GroupRecord) (a : ArrayAccess),
    s.port.access = some a → a.requester = .engine → a.request.kind = .write → s.queue = g :: rest →
    (s.engine.state = .clearing ∨ (s.engine.state = .homing g.entries.length ∧ journalOn s.straps = false)) →
    engineSound s → storeSound s → noneAgain s → (∀ d, (s.domains.get d).autoPending = false) →
    ∃ t, sameSettings { s with array := Memory.store s.array a.request.addr a.request.lanes a.request.data } t
      ∧ t.queue = rest ∧ freeCount t = freeCount s + g.entries.length
      ∧ t.store = { s.store with flow := flowReleased s g.entries.length }
      ∧ t.domains.get g.domain = { s.domains.get g.domain with appliedTag := g.tag }
      ∧ sameOtherDomains g.domain s t
      ∧ t.mgmt = s.mgmt.noted [.applied] [.groupsApplied]
      ∧ t.engine = { s.engine with state := if rest ≠ [] ∧ mayBegin s then firstPhase s.straps else .idle }
      ∧ engineOutstanding t.port = engineRequest t
      ∧ t.host = { s.host with port := t.host.port }
      ∧ (∀ p d, s.host.port = .inProgress p → p.hold = .sync d → g.sync = true → t.host.port = quietEnd p.ended)
      ∧ ((∀ p d, s.host.port = .inProgress p → p.hold = .sync d → g.sync = false) → t.host = s.host)
      ∧ (noneWaiting s → exec (.arrayAccessComplete ad) s = .next t)
      ∧ ∀ p d b l w, heldWrite s p d b l w → domainSound s.straps (s.domains.get d) →
          exec (.arrayAccessComplete ad) s = .next (examinedWrite t d b l w (quietEnd p.ended))

/-- The slot that comes free where the head leaves a full queue, by its retire with the journal on or off or by ABANDON_HEAD,
goes to the commit held for one: its group is queued at the tail with the host's tag, and the commit completes or, with the
sync option on, goes on held for sync with its timer; that an expiry already due stays due through this is the model's
choice (notes/assumptions/26.md). With no commit held for a slot it goes to the lowest-numbered OPEN domain with
auto-commit pending, whose group is queued with its auto tag. -/
def Obligations.FreedSlotGoesToOneContender : Prop :=
  ∀ (c : Instr) (s : State) (g : GroupRecord) (rest : List GroupRecord),
    s.queue = g :: rest → s.queue.length = 32 → engineSound s → noneAgain s →
    ((∃ ad a, c = .arrayAccessComplete ad ∧ s.port.access = some a ∧ a.requester = .engine
        ∧ (s.engine.state = .clearing
          ∨ (s.engine.state = .homing g.entries.length ∧ journalOn s.straps = false)))
      ∨ (c = .abandonHead [] ∧ framesSeen s ∧ ∃ i, s.engine.state = .faulted .copying i)) →
    (∀ p d tag, s.host.port = .inProgress p → p.hold = .queueSlot d tag →
      ∃ t, exec c s = .next t
        ∧ t.queue = rest ++ [recordOf s d tag (s.domains.get d).sync]
        ∧ (t.domains.get d).lastTag = tag ∧ (t.domains.get d).state = .empty ∧ (t.domains.get d).closing = false
        ∧ t.host.port = (if (s.domains.get d).sync then .inProgress { p with hold := .sync d }
            else quietEnd p.ended)
        ∧ ∀ e, e ≠ d → (t.domains.get e).autoPending = (s.domains.get e).autoPending)
    ∧ (noneWaiting s → ∀ d, (s.domains.get d).state = .opened → (s.domains.get d).autoPending = true →
      (∀ e : Dom, e.toNat < d.toNat → (s.domains.get e).autoPending = false) →
      ∃ t, exec c s = .next t
        ∧ t.queue = rest ++ [recordOf s d (autoTag s d) false]
        ∧ (t.domains.get d).lastTag = autoTag s d ∧ (t.domains.get d).state = .empty
        ∧ (t.domains.get d).autoPending = false
        ∧ ∀ e, e ≠ d → (t.domains.get e).autoPending = (s.domains.get e).autoPending)

/-- A due timeout of an apply's access takes the engine to FAULTED with the phase and the record index kept, FAULT and
ARRAY set and ARRSRC ENGINE; the group stays at the head. A staged write held for space then breaks its domain with cause
STORE_FULL, a commit held for a slot breaks its domain with cause QUEUE_FULL and takes it to EMPTY, and either is dropped
with cause BROKEN. A timeout of recovery takes the engine to BLOCKED with cause ARRAY and RECFAIL and ARRAY set (stated where
no host access is held; RecoveryCourse gives the release of one); one of a discard write leaves it BLOCKED, with cause ARRAY
and the same flags. That a timeout is due from its tick until it is taken is the model's choice (notes/assumptions/8.md). -/
def Obligations.EngineAccessTimesOut : Prop :=
  ∀ (s : State) (left : Option Word) (a : ArrayAccess),
    s.port.access = some a → a.requester = .engine → a.due = true → noneAgain s →
    (∀ p i,
      ((∃ w, s.engine.state = .copying i w) ∧ p = .copying ∨ s.engine.state = .marking i ∧ p = .marking
        ∨ s.engine.state = .homing i ∧ p = .homing ∨ s.engine.state = .clearing ∧ p = .clearing ∧ i = 0) →
      ∃ t, t = { s with
            engine := { s.engine with state := .faulted p i }
            port := Port.arbitrate { s.port with access := none, arrsrc := .engine }
            array := t.array
            mgmt := s.mgmt.noted [.array, .fault] [] }
        ∧ (left = none → t.array = s.array)
        ∧ (noneWaiting s → exec (.arrayTimeout left) s = .next t)
        ∧ (storeSound s → ∀ q d, domainSound s.straps (s.domains.get d) →
          (∀ b l w, heldWrite s q d b l w →
            exec (.arrayTimeout left) s = .next (brokeAndDropped t d .storeFull [] (quietEnd q.ended)))
          ∧ (∀ tag, heldCommit s q d tag →
            exec (.arrayTimeout left) s = .next (commitBrokeAndDropped t d .queueFull [] (quietEnd q.ended)))))
    ∧ (∀ r, s.engine.state = .recovering r → (∀ p, s.host.port ≠ .inProgress p) →
      ∃ t, exec (.arrayTimeout left) s = .next t
        ∧ t = { s with
            engine := { s.engine with state := .blocked .array false }
            port := Port.arbitrate { s.port with access := none, arrsrc := .engine }
            array := t.array
            mgmt := s.mgmt.noted [.array, .recfail] [] })
    ∧ (∀ c, s.engine.state = .blocked c true →
      ∃ t, exec (.arrayTimeout left) s = .next t
        ∧ t = { s with
            engine := { s.engine with state := .blocked .array false }
            port := Port.arbitrate { s.port with access := none, arrsrc := .engine }
            array := t.array
            mgmt := s.mgmt.noted [.array, .recfail] [] })

/-- Recovery's course. It reads header words 0 to 7 and the record words in order, each at its place from the journal base. A
word 0 that is not VALID ends it in IDLE with no flag; a header or records that fail a test end it in BLOCKED with cause
CHECK and RECFAIL set; a valid journal is replayed: records with an empty lane mask are passed over without an access, every
other goes home at its address, in its lanes, with its data, and at last EMPTY is written. When that write completes, the
recovery registers take header words 1, 2, 4 and 3, SEQ takes the replayed sequence plus one, RECOVERED is set and the
engine goes to IDLE. The end of a discard write takes the engine from BLOCKED to IDLE with no flag. While recovery goes on a
held host access stays held; when it ends, in whatever way, the access is taken as if it arrived then. -/
def Obligations.RecoveryCourse : Prop :=
  (
  ∀ (s : State) (ad : Option Word) (a : ArrayAccess) (w : Word),
    s.port.access = some a → a.requester = .engine → a.request.kind = .read → engineSound s →
    w = ad.getD (Memory.word s.array a.request.addr) → (∀ p, s.host.port ≠ .inProgress p) →
    (s.engine.state = .recovering .marker → w ≠ 0xC3A5#16 →
      exec (.arrayAccessComplete ad) s = .next { s with
        engine := { s.engine with state := .idle }
        port := Port.arbitrate { s.port with access := none } })
    ∧ (s.engine.state = .recovering .marker → w = 0xC3A5#16 → recoveryGoesOn ad s.array (.header [w]) s)
    ∧ (∀ h, s.engine.state = .recovering (.header h) →
      (h.length < 7 → recoveryGoesOn ad s.array (.header (h ++ [w])) s)
      ∧ (h.length = 7 → headerValid s.straps (h ++ [w]) = true → recoveryGoesOn ad s.array (.records (h ++ [w]) []) s)
      ∧ (h.length = 7 → headerValid s.straps (h ++ [w]) = false → recoveryFailsCheck ad s))
    ∧ (∀ h ws, s.engine.state = .recovering (.records h ws) →
      (ws.length + 1 < 3 * (wordAt h 3).toNat → recoveryGoesOn ad s.array (.records h (ws ++ [w])) s)
      ∧ (ws.length + 1 = 3 * (wordAt h 3).toNat → recordsValid s.straps h (ws ++ [w]) = false → recoveryFailsCheck ad s)
      ∧ (ws.length + 1 = 3 * (wordAt h 3).toNat → recordsValid s.straps h (ws ++ [w]) = true →
        ∀ passed, (∀ r ∈ passed, r.lanes.isEmpty = true) →
          (recordsOfWords (ws ++ [w]) = passed → recoveryGoesOn ad s.array (.finish h) s)
          ∧ ∀ r rest, r.lanes.isEmpty = false → recordsOfWords (ws ++ [w]) = passed ++ r :: rest →
            recoveryGoesOn ad s.array (.replay h (r :: rest)) s))
  )
  ∧
  (
  ∀ (st : Straps) (h ws : List Word) (r : JournalRecord) (rest : List JournalRecord),
    recoveryRequest st .marker = some ⟨.read, BitVec.ofNat 20 (journalBase st), 0#16, Lanes.both⟩
    ∧ recoveryRequest st (.header h) = some ⟨.read, BitVec.ofNat 20 (journalBase st + h.length), 0#16, Lanes.both⟩
    ∧ recoveryRequest st (.records h ws)
        = some ⟨.read, BitVec.ofNat 20 (journalBase st + (8 + ws.length)), 0#16, Lanes.both⟩
    ∧ recoveryRequest st (.replay h (r :: rest)) = some ⟨.write, r.addr, r.data, r.lanes⟩
    ∧ recoveryRequest st (.finish h) = some ⟨.write, BitVec.ofNat 20 (journalBase st), 0x0000#16, Lanes.both⟩
  )
  ∧
  (
  ∀ (s : State) (ad : Option Word) (a : ArrayAccess), s.port.access = some a → a.requester = .engine →
    a.request.kind = .write → engineSound s → (∀ p, s.host.port ≠ .inProgress p) →
    ∀ array, array = Memory.store s.array a.request.addr a.request.lanes a.request.data →
    (∀ h r rest passed, s.engine.state = .recovering (.replay h (r :: rest)) → (∀ e ∈ passed, e.lanes.isEmpty = true) →
      ∀ next, (rest = passed ∧ next = .finish h
          ∨ ∃ e es, e.lanes.isEmpty = false ∧ rest = passed ++ e :: es ∧ next = .replay h (e :: es)) →
        recoveryGoesOn ad array next s)
    ∧ (∀ h, s.engine.state = .recovering (.finish h) →
      exec (.arrayAccessComplete ad) s = .next { s with
        engine := { s.engine with
          state := .idle, rseq := h.getD 1 0#16, rdom := h.getD 2 0#16, rtag := h.getD 4 0#16,
          rcnt := h.getD 3 0#16, seq := h.getD 1 0#16 + 1#16 }
        port := Port.arbitrate { s.port with access := none }
        array := array
        mgmt := s.mgmt.noted [.recovered] [] })
    ∧ (∀ c, s.engine.state = .blocked c true →
      exec (.arrayAccessComplete ad) s = .next { s with
        engine := { s.engine with state := .idle }
        port := Port.arbitrate { s.port with access := none }
        array := array })
  )
  ∧
  (
  ∀ (c : Instr) (s u : State) (p : Progress) (bus : HostBus),
    (∃ ad, c = .arrayAccessComplete ad) ∨ (∃ left, c = .arrayTimeout left) →
    s.engine.state.isRecovering = true → s.host.port = .inProgress p → p.hold = .recovery → noneAgain s →
    capture s.straps.hpar bus = some p.access →
    exec c { s with host := { s.host with port := .idle } } = .next u →
      (u.engine.state.isRecovering = true →
        exec c s = .next { u with host := { u.host with port := .inProgress p } })
      ∧ (u.engine.state.isRecovering = false →
        ∃ t, exec (.hostAccessArrival bus) u = .next t
          ∧ exec c s = .next (if p.ended then endedEarly t else t))
  )

/-! ### Time and power -/

/-- A tick with no change of the filtered state: the hold timer of an access under a limited hold and the timeout count of
the array access rise by one, with their expiry due where a limit other than 0 is reached; the counter of each counting
domain falls by one, due at 0; the samples of PWARN# shift. Nothing else changes. Expiries of this tick that are taken
before the sample's effect follow in their order, each as its own row. That a tick only makes an expiry due, which its own
row or the tick's list takes, and that the divider count is 0 at every command, is the model's choice
(notes/assumptions/8.md, 12.md and 22.md). -/
def Obligations.TickMovesTheCounts : Prop :=
  ∀ (s : State) (low : Bool), (low = s.power.low ∨ s.power.last = s.power.low) →
    ∃ t, exec (.tick low []) s = .next t
      ∧ t = { s with
          domains := t.domains, host := { s.host with port := t.host.port }
          port := { s.port with access := t.port.access }
          power := ⟨s.power.low, low, s.power.last⟩, ticks := { s.ticks with divCount := 0 } }
      ∧ (∀ p, s.host.port = .inProgress p → t.host.port = .inProgress (
          if (match p.hold with
              | .storeSpace _ => true
              | .queueSlot _ _ => true
              | .sync _ => true
              | _ => false) = true then
            { p with
              count := p.count + 1
              due := decide (s.host.holdlim ≠ 0#16 ∧ s.host.holdlim.toNat ≤ p.count + 1) }
          else p))
      ∧ ((∀ p, s.host.port ≠ .inProgress p) → t.host.port = s.host.port)
      ∧ t.port.access = s.port.access.map (fun a =>
          { a with count := a.count + 1, due := decide (s.port.arrto ≠ 0#16 ∧ s.port.arrto.toNat ≤ a.count + 1) })
      ∧ (∀ d, t.domains.get d =
          if (s.domains.get d).state = .opened ∧ (s.domains.get d).closing = false
              ∧ (s.domains.get d).autoPending = false ∧ (s.domains.get d).age ≠ 0#16
              ∧ ¬(s.ticks.chain01 = true ∧ d = .i1) ∧ ¬(s.ticks.chain23 = true ∧ d = .i3) then
            { s.domains.get d with
              age := (s.domains.get d).age - 1#16, ageDue := decide ((s.domains.get d).age = 1#16) }
          else s.domains.get d)
      ∧ (∀ early, exec (.tick low early) s = .next (early.foldl takeExpiry t))
      ∧ ∀ (e : Expiry) (u : State), exec e.row u = .next (takeExpiry u e)

/-- A due age expiry sets AGE: with NOTIFY nothing else; with COMMIT and a full queue auto-commit pending is set; with
ABANDON the domain breaks with cause AGE, and a staged write held for space is dropped with cause BROKEN where the domain is
its own and examined where it is another. That an expiry is due from its tick until it is taken, and that one not due
changes nothing, is the model's choice (notes/assumptions/8.md, 9.md and 22.md). A due age expiry with COMMIT and a free
slot queues the open group with the auto tag and without the sync-waiter flag, whatever the sync option: LASTTAG takes
the auto tag, GROUPS_COMMITTED rises, the domain is EMPTY, and an IDLE engine may begin; a staged write held for space
stays held. The auto tag is LASTTAG + 1, modulo 65536, advanced by one more where that equals ABORTVAL; it is never
ABORTVAL. -/
def Obligations.AgeExpiries : Prop :=
  (
  ∀ (s : State) (d : Dom), noneAgain s →
    ((s.domains.get d).ageDue = false → exec (.ageExpiry d) s = .next s)
    ∧ ((s.domains.get d).ageDue = true →
      ((s.domains.get d).ageAction = .notify →
        exec (.ageExpiry d) s = .next { s with
          domains := s.domains.set d { s.domains.get d with ageDue := false }
          mgmt := s.mgmt.noted [.age] [] })
      ∧ ((s.domains.get d).ageAction = .commit → s.queue.length = 32 →
        exec (.ageExpiry d) s = .next { s with
          domains := s.domains.set d { s.domains.get d with ageDue := false, autoPending := true }
          mgmt := s.mgmt.noted [.age] [] })
      ∧ ((s.domains.get d).ageAction = .abandon → (s.domains.get d).state = .opened → storeSound s →
        ∀ t : State, t = { s with
            domains := s.domains.set d (brokenBy .age (s.domains.get d))
            store := { s.store with flow := flowReleased s (s.domains.get d).group.length }
            mgmt := s.mgmt.noted [.age, .broken] [.groupsBroken] } →
          (noneWaiting s ∨ (∃ p b tag, heldCommit s p b tag) ∧ s.engine.state.stopped = false →
            exec (.ageExpiry d) s = .next t)
          ∧ ∀ p b a l w, heldWrite s p b a l w → domainSound s.straps (s.domains.get b) →
            (b = d → exec (.ageExpiry d) s = .next (brokeAndDropped s d .age [.age] (quietEnd p.ended)))
            ∧ (b ≠ d → exec (.ageExpiry d) s = .next (examinedWrite t b a l w (quietEnd p.ended)))))
  )
  ∧
  (
  ∀ (s : State) (d : Dom), (s.domains.get d).ageDue = true → (s.domains.get d).ageAction = .commit →
    s.queue.length < 32 → (noneWaiting s ∨ ∃ p b a l w, heldWrite s p b a l w ∧ s.engine.state.stopped = false) →
    engineSound s →
    ∃ t, exec (.ageExpiry d) s = .next t
      ∧ t = { s with
          queue := s.queue ++ [recordOf s d (autoTag s d) false]
          domains := s.domains.set d (emptied (s.domains.get d) (autoTag s d))
          engine := { s.engine with
            seq := s.engine.seq + 1#16
            state := if s.engine.state = .idle ∧ mayBegin s then firstPhase s.straps else s.engine.state }
          mgmt := s.mgmt.noted [.age] [.groupsCommitted]
          port := t.port }
      ∧ engineOutstanding t.port = engineRequest t
  )
  ∧
  (
  ∀ (s : State) (d : Dom),
    (autoTag s d).toNat =
      (if ((s.domains.get d).lastTag.toNat + 1) % 65536 = s.abortval.toNat then
         ((s.domains.get d).lastTag.toNat + 2) % 65536
       else ((s.domains.get d).lastTag.toNat + 1) % 65536)
    ∧ autoTag s d ≠ s.abortval
  )

/-- The filter at a tick: in NORMAL the new sample low and the one before it low enter POWER_LOW, in POWER_LOW both
high return to NORMAL, any other pair changes nothing; both samples then equal the filtered state. The return to
NORMAL sets POWEROK and, with the journal off, begins the head group where the engine is IDLE with HOLD clear and a
group is queued; every domain, the queue and the store stay. It acts on the state that the counts of the tick and the
expiries taken before it have left; that a tick names these expiries is the model's choice (notes/assumptions/8.md). -/
def Obligations.PowerFilterAndReturn : Prop :=
  (
  ∀ (s : State) (low : Bool) (early : List Expiry),
    ∃ t, exec (.tick low early) s = .next t
      ∧ t.power.last = low ∧ t.power.previous = s.power.last
      ∧ t.power.low =
        (if s.power.low = false ∧ low = true ∧ s.power.last = true then true
         else if s.power.low = true ∧ low = false ∧ s.power.last = false then false
         else s.power.low)
  )
  ∧
  (
  ∀ (s w v : State) (early : List Expiry), s.power.low = true → s.power.last = false →
    exec (.tick true []) s = .next w → v = early.foldl takeExpiry w → noneWaiting v →
    ∃ t, exec (.tick false early) s = .next t
      ∧ t = { v with
          power := ⟨false, false, false⟩, mgmt := v.mgmt.noted [.powerok] []
          engine := { v.engine with state :=
            if v.engine.state = .idle ∧ v.engine.hold = false ∧ v.queue ≠ [] then firstPhase v.straps
            else v.engine.state }
          port := t.port }
      ∧ (engineSound v → engineOutstanding t.port = engineRequest t)
  )

/-- Entry to POWER_LOW: POWER is set; OPEN and closing domains break with cause POWER and the others keep their state, with
BROKEN set and GROUPS_BROKEN raised once a break; their entries come free together with one flow test; a staged write held
for space and a commit held for a slot are dropped with cause POWER, DROPPED and WRITES_DROPPED, a commit held for sync
completes and no record waits for it, any other access goes on; the queued groups, LASTTAG, APPLIEDTAG and the engine
stay. It acts on the state that the counts of the tick and the expiries taken before it have left; that a tick names these
expiries is the model's choice (notes/assumptions/8.md). -/
def Obligations.PowerLowEntry : Prop :=
  ∀ (s w v : State) (early : List Expiry), s.power.low = false → s.power.last = true →
    exec (.tick false []) s = .next w → v = early.foldl takeExpiry w → noneAgain v →
    (∀ d, domainSound v.straps (v.domains.get d)) → storeSound v →
    ∃ (t : State) (breaks : Dom → Bool) (drops : Bool),
      (∀ d, breaks d = ((v.domains.get d).state == .opened || (v.domains.get d).closing))
      ∧ (drops = true ↔ ∃ p, v.host.port = .inProgress p
          ∧ ((∃ d, p.hold = .storeSpace d) ∨ ∃ d tag, p.hold = .queueSlot d tag))
      ∧ exec (.tick true early) s = .next t
      ∧ t.power = ⟨true, true, true⟩ ∧ t.engine = v.engine ∧ t.port = v.port ∧ t.cl = v.cl
      ∧ t.straps = v.straps ∧ t.abortval = v.abortval ∧ t.diag = v.diag ∧ t.ticks = v.ticks ∧ t.array = v.array
      ∧ t.pending = v.pending
      ∧ (∀ d, t.domains.get d = if breaks d then brokenBy .power (v.domains.get d) else v.domains.get d)
      ∧ freeCount t = 512 - queuedEntries v.queue
      ∧ t.store = { v.store with flow := flowReleased v (freeCount t - freeCount v) }
      ∧ t.mgmt = { v.mgmt with flags := t.mgmt.flags, counters := t.mgmt.counters }
      ∧ t.flag .power = true
      ∧ t.flag .broken = (v.flag .broken || Ix4.all.any breaks)
      ∧ t.flag .dropped = (v.flag .dropped || drops)
      ∧ (∀ f, f ≠ .power → f ≠ .broken → f ≠ .dropped → t.flag f = v.flag f)
      ∧ (t.mgmt.counters.get .groupsBroken).toNat
          = min 65535 ((v.mgmt.counters.get .groupsBroken).toNat + (Ix4.all.filter breaks).length)
      ∧ (t.mgmt.counters.get .writesDropped).toNat
          = min 65535 ((v.mgmt.counters.get .writesDropped).toNat + drops.toNat)
      ∧ (∀ k, k ≠ .groupsBroken → k ≠ .writesDropped → t.mgmt.counters.get k = v.mgmt.counters.get k)
      ∧ (∀ p, v.host.port = .inProgress p →
          (drops = true →
            t.host = { v.host with port := quietEnd p.ended, dropcause := .power } ∧ t.queue = v.queue)
          ∧ ((∃ d, p.hold = .sync d) → t.host = { v.host with port := quietEnd p.ended }
            ∧ t.queue = v.queue.map (fun g => { g with sync := false }))
          ∧ (p.hold = .plainRead ∨ (∃ d, p.hold = .mergeRead d) ∨ p.hold = .passWrite ∨ p.hold = .recovery →
            t.host = v.host ∧ t.queue = v.queue))
      ∧ ((∀ p, v.host.port ≠ .inProgress p) → t.host = v.host ∧ t.queue = v.queue)

/-! ### Invariants -/

/-- Every invariant holds in State.reset. -/
def Obligations.ResetMeetsTheInvariants : Prop :=
  arrayCanonical State.reset ∧ queueBounded State.reset ∧ limitsSound State.reset ∧ storeSound State.reset
    ∧ domainsSound State.reset ∧ recoverySound State.reset ∧ engineSound State.reset ∧ addressesSound State.reset
    ∧ homingHasValidJournal State.reset ∧ hostSound State.reset ∧ cellsDistinct State.reset

/-- Every step keeps the array's contents in canonical form. The form is the model's own: addresses rise and no lane holds
what an unlisted one reads as (notes/assumptions/4.md and 13.md). -/
def Obligations.StepsKeepArrayCanonical : Prop :=
  ∀ s t : State, arrayCanonical s → step s = .next t → arrayCanonical t

/-- Every step keeps the commit queue at 32 groups or fewer, and the limits in their ranges. -/
def Obligations.StepsKeepQueueAndLimits : Prop :=
  ∀ s t : State, step s = .next t → (queueBounded s → queueBounded t) ∧ (limitsSound s → limitsSound t)

/-- Every step keeps the store sound: 512 entries in all, the flow state on its side of the thresholds. -/
def Obligations.StepsKeepStoreSound : Prop :=
  ∀ s t : State, storeSound s → step s = .next t → storeSound t

/-- Every step keeps the domains sound: a group exactly in OPEN and within its ceiling, with distinct addresses, the
flags and the age counter only where they belong. -/
def Obligations.StepsKeepDomainsSound : Prop :=
  ∀ s t : State, domainsSound s → step s = .next t → domainsSound t

/-- Every step keeps recovery sound: what it holds has passed the tests made so far, RDOM is a domain, RCNT a record
count. -/
def Obligations.StepsKeepRecoverySound : Prop :=
  ∀ s t : State, recoverySound s → step s = .next t → recoverySound t

/-- Every step keeps the engine to one access, the one its state asks for, with the group in flight at the head of the
queue. -/
def Obligations.StepsKeepEngineSound : Prop :=
  ∀ s t : State, engineSound s → step s = .next t → engineSound t

/-- Every step keeps every entry, every commit cell and every host write below the journal base. -/
def Obligations.StepsKeepAddressesBelowTheBase : Prop :=
  ∀ s t : State, addressesSound s → step s = .next t → addressesSound t

/-- With the journal on, the engine writes a group home only while word 0 of the journal in the array holds VALID, and
recovery writes records home only where the word 0 that it has read is VALID: every step keeps this, given that the engine
and recovery are sound and every address lies below the base. -/
def Obligations.HomeWritesOnlyUnderValidJournal : Prop :=
  ∀ s t : State, engineSound s → recoverySound s → addressesSound s → homingHasValidJournal s → step s = .next t →
    homingHasValidJournal t

/-- Every step keeps the Host Port, the array port and the queue in agreement about the access in progress, and levels
asserted again only under an access whose strobes ended early. -/
def Obligations.StepsKeepHostSound : Prop :=
  ∀ s t : State, queueBounded s → limitsSound s → storeSound s → domainsSound s → hostSound s → step s = .next t →
    hostSound t

/-- Every step keeps the commit cells of enabled domains distinct. -/
def Obligations.StepsKeepCellsDistinct : Prop :=
  ∀ s t : State, queueBounded s → limitsSound s → storeSound s → domainsSound s → hostSound s → cellsDistinct s →
    step s = .next t → cellsDistinct t
end

