-- ==== Sys2Proof/Laws/State.lean ====
section
/-! SUPPORT. What the plain updates of the state change, field by field: each lemma is true by unfolding, so that no
proof unfolds a record update. Then the four-fold values by their numbers. -/

namespace Sys2Proof.Machine

/-! ### `setFlag` -/

@[simp] theorem setFlag_straps (f : FlagId) (s : State) :
    (setFlag f s).straps = s.straps := rfl

@[simp] theorem setFlag_cl (f : FlagId) (s : State) :
    (setFlag f s).cl = s.cl := rfl

@[simp] theorem setFlag_domains (f : FlagId) (s : State) :
    (setFlag f s).domains = s.domains := rfl

@[simp] theorem setFlag_abortval (f : FlagId) (s : State) :
    (setFlag f s).abortval = s.abortval := rfl

@[simp] theorem setFlag_store (f : FlagId) (s : State) :
    (setFlag f s).store = s.store := rfl

@[simp] theorem setFlag_queue (f : FlagId) (s : State) :
    (setFlag f s).queue = s.queue := rfl

@[simp] theorem setFlag_engine (f : FlagId) (s : State) :
    (setFlag f s).engine = s.engine := rfl

@[simp] theorem setFlag_port (f : FlagId) (s : State) :
    (setFlag f s).port = s.port := rfl

@[simp] theorem setFlag_diag (f : FlagId) (s : State) :
    (setFlag f s).diag = s.diag := rfl

@[simp] theorem setFlag_host (f : FlagId) (s : State) :
    (setFlag f s).host = s.host := rfl

@[simp] theorem setFlag_ticks (f : FlagId) (s : State) :
    (setFlag f s).ticks = s.ticks := rfl

@[simp] theorem setFlag_power (f : FlagId) (s : State) :
    (setFlag f s).power = s.power := rfl

@[simp] theorem setFlag_mgmt (f : FlagId) (s : State) :
    (setFlag f s).mgmt = { s.mgmt with flags := s.mgmt.flags ||| f.bit } := rfl

@[simp] theorem setFlag_array (f : FlagId) (s : State) :
    (setFlag f s).array = s.array := rfl

@[simp] theorem setFlag_pending (f : FlagId) (s : State) :
    (setFlag f s).pending = s.pending := rfl

/-! ### `bump` -/

@[simp] theorem bump_straps (c : CounterId) (s : State) :
    (bump c s).straps = s.straps := rfl

@[simp] theorem bump_cl (c : CounterId) (s : State) :
    (bump c s).cl = s.cl := rfl

@[simp] theorem bump_domains (c : CounterId) (s : State) :
    (bump c s).domains = s.domains := rfl

@[simp] theorem bump_abortval (c : CounterId) (s : State) :
    (bump c s).abortval = s.abortval := rfl

@[simp] theorem bump_store (c : CounterId) (s : State) :
    (bump c s).store = s.store := rfl

@[simp] theorem bump_queue (c : CounterId) (s : State) :
    (bump c s).queue = s.queue := rfl

@[simp] theorem bump_engine (c : CounterId) (s : State) :
    (bump c s).engine = s.engine := rfl

@[simp] theorem bump_port (c : CounterId) (s : State) :
    (bump c s).port = s.port := rfl

@[simp] theorem bump_diag (c : CounterId) (s : State) :
    (bump c s).diag = s.diag := rfl

@[simp] theorem bump_host (c : CounterId) (s : State) :
    (bump c s).host = s.host := rfl

@[simp] theorem bump_ticks (c : CounterId) (s : State) :
    (bump c s).ticks = s.ticks := rfl

@[simp] theorem bump_power (c : CounterId) (s : State) :
    (bump c s).power = s.power := rfl

@[simp] theorem bump_mgmt (c : CounterId) (s : State) :
    (bump c s).mgmt = { s.mgmt with counters := s.mgmt.counters.set c (saturatingSucc (s.mgmt.counters.get c)) } := rfl

@[simp] theorem bump_array (c : CounterId) (s : State) :
    (bump c s).array = s.array := rfl

@[simp] theorem bump_pending (c : CounterId) (s : State) :
    (bump c s).pending = s.pending := rfl

/-! ### `modDomain` -/

@[simp] theorem modDomain_straps (d : Dom) (f : Domain → Domain) (s : State) :
    (modDomain d f s).straps = s.straps := rfl

@[simp] theorem modDomain_cl (d : Dom) (f : Domain → Domain) (s : State) :
    (modDomain d f s).cl = s.cl := rfl

@[simp] theorem modDomain_domains (d : Dom) (f : Domain → Domain) (s : State) :
    (modDomain d f s).domains = s.domains.set d (f (s.domains.get d)) := rfl

@[simp] theorem modDomain_abortval (d : Dom) (f : Domain → Domain) (s : State) :
    (modDomain d f s).abortval = s.abortval := rfl

@[simp] theorem modDomain_store (d : Dom) (f : Domain → Domain) (s : State) :
    (modDomain d f s).store = s.store := rfl

@[simp] theorem modDomain_queue (d : Dom) (f : Domain → Domain) (s : State) :
    (modDomain d f s).queue = s.queue := rfl

@[simp] theorem modDomain_engine (d : Dom) (f : Domain → Domain) (s : State) :
    (modDomain d f s).engine = s.engine := rfl

@[simp] theorem modDomain_port (d : Dom) (f : Domain → Domain) (s : State) :
    (modDomain d f s).port = s.port := rfl

@[simp] theorem modDomain_diag (d : Dom) (f : Domain → Domain) (s : State) :
    (modDomain d f s).diag = s.diag := rfl

@[simp] theorem modDomain_host (d : Dom) (f : Domain → Domain) (s : State) :
    (modDomain d f s).host = s.host := rfl

@[simp] theorem modDomain_ticks (d : Dom) (f : Domain → Domain) (s : State) :
    (modDomain d f s).ticks = s.ticks := rfl

@[simp] theorem modDomain_power (d : Dom) (f : Domain → Domain) (s : State) :
    (modDomain d f s).power = s.power := rfl

@[simp] theorem modDomain_mgmt (d : Dom) (f : Domain → Domain) (s : State) :
    (modDomain d f s).mgmt = s.mgmt := rfl

@[simp] theorem modDomain_array (d : Dom) (f : Domain → Domain) (s : State) :
    (modDomain d f s).array = s.array := rfl

@[simp] theorem modDomain_pending (d : Dom) (f : Domain → Domain) (s : State) :
    (modDomain d f s).pending = s.pending := rfl

/-! ### `setEngine` -/

@[simp] theorem setEngine_straps (e : EngineState) (s : State) :
    (setEngine e s).straps = s.straps := rfl

@[simp] theorem setEngine_cl (e : EngineState) (s : State) :
    (setEngine e s).cl = s.cl := rfl

@[simp] theorem setEngine_domains (e : EngineState) (s : State) :
    (setEngine e s).domains = s.domains := rfl

@[simp] theorem setEngine_abortval (e : EngineState) (s : State) :
    (setEngine e s).abortval = s.abortval := rfl

@[simp] theorem setEngine_store (e : EngineState) (s : State) :
    (setEngine e s).store = s.store := rfl

@[simp] theorem setEngine_queue (e : EngineState) (s : State) :
    (setEngine e s).queue = s.queue := rfl

@[simp] theorem setEngine_engine (e : EngineState) (s : State) :
    (setEngine e s).engine = { s.engine with state := e } := rfl

@[simp] theorem setEngine_port (e : EngineState) (s : State) :
    (setEngine e s).port = s.port := rfl

@[simp] theorem setEngine_diag (e : EngineState) (s : State) :
    (setEngine e s).diag = s.diag := rfl

@[simp] theorem setEngine_host (e : EngineState) (s : State) :
    (setEngine e s).host = s.host := rfl

@[simp] theorem setEngine_ticks (e : EngineState) (s : State) :
    (setEngine e s).ticks = s.ticks := rfl

@[simp] theorem setEngine_power (e : EngineState) (s : State) :
    (setEngine e s).power = s.power := rfl

@[simp] theorem setEngine_mgmt (e : EngineState) (s : State) :
    (setEngine e s).mgmt = s.mgmt := rfl

@[simp] theorem setEngine_array (e : EngineState) (s : State) :
    (setEngine e s).array = s.array := rfl

@[simp] theorem setEngine_pending (e : EngineState) (s : State) :
    (setEngine e s).pending = s.pending := rfl

/-! ### `setHost` -/

@[simp] theorem setHost_straps (p : HostPort) (s : State) :
    (setHost p s).straps = s.straps := rfl

@[simp] theorem setHost_cl (p : HostPort) (s : State) :
    (setHost p s).cl = s.cl := rfl

@[simp] theorem setHost_domains (p : HostPort) (s : State) :
    (setHost p s).domains = s.domains := rfl

@[simp] theorem setHost_abortval (p : HostPort) (s : State) :
    (setHost p s).abortval = s.abortval := rfl

@[simp] theorem setHost_store (p : HostPort) (s : State) :
    (setHost p s).store = s.store := rfl

@[simp] theorem setHost_queue (p : HostPort) (s : State) :
    (setHost p s).queue = s.queue := rfl

@[simp] theorem setHost_engine (p : HostPort) (s : State) :
    (setHost p s).engine = s.engine := rfl

@[simp] theorem setHost_port (p : HostPort) (s : State) :
    (setHost p s).port = s.port := rfl

@[simp] theorem setHost_diag (p : HostPort) (s : State) :
    (setHost p s).diag = s.diag := rfl

@[simp] theorem setHost_host (p : HostPort) (s : State) :
    (setHost p s).host = { s.host with port := p } := rfl

@[simp] theorem setHost_ticks (p : HostPort) (s : State) :
    (setHost p s).ticks = s.ticks := rfl

@[simp] theorem setHost_power (p : HostPort) (s : State) :
    (setHost p s).power = s.power := rfl

@[simp] theorem setHost_mgmt (p : HostPort) (s : State) :
    (setHost p s).mgmt = s.mgmt := rfl

@[simp] theorem setHost_array (p : HostPort) (s : State) :
    (setHost p s).array = s.array := rfl

@[simp] theorem setHost_pending (p : HostPort) (s : State) :
    (setHost p s).pending = s.pending := rfl

/-! ### `postRequest` -/

@[simp] theorem postRequest_straps (w : Requester) (r : Request) (s : State) :
    (postRequest w r s).straps = s.straps := rfl

@[simp] theorem postRequest_cl (w : Requester) (r : Request) (s : State) :
    (postRequest w r s).cl = s.cl := rfl

@[simp] theorem postRequest_domains (w : Requester) (r : Request) (s : State) :
    (postRequest w r s).domains = s.domains := rfl

@[simp] theorem postRequest_abortval (w : Requester) (r : Request) (s : State) :
    (postRequest w r s).abortval = s.abortval := rfl

@[simp] theorem postRequest_store (w : Requester) (r : Request) (s : State) :
    (postRequest w r s).store = s.store := rfl

@[simp] theorem postRequest_queue (w : Requester) (r : Request) (s : State) :
    (postRequest w r s).queue = s.queue := rfl

@[simp] theorem postRequest_engine (w : Requester) (r : Request) (s : State) :
    (postRequest w r s).engine = s.engine := rfl

@[simp] theorem postRequest_port (w : Requester) (r : Request) (s : State) :
    (postRequest w r s).port = s.port.post w r := rfl

@[simp] theorem postRequest_diag (w : Requester) (r : Request) (s : State) :
    (postRequest w r s).diag = s.diag := rfl

@[simp] theorem postRequest_host (w : Requester) (r : Request) (s : State) :
    (postRequest w r s).host = s.host := rfl

@[simp] theorem postRequest_ticks (w : Requester) (r : Request) (s : State) :
    (postRequest w r s).ticks = s.ticks := rfl

@[simp] theorem postRequest_power (w : Requester) (r : Request) (s : State) :
    (postRequest w r s).power = s.power := rfl

@[simp] theorem postRequest_mgmt (w : Requester) (r : Request) (s : State) :
    (postRequest w r s).mgmt = s.mgmt := rfl

@[simp] theorem postRequest_array (w : Requester) (r : Request) (s : State) :
    (postRequest w r s).array = s.array := rfl

@[simp] theorem postRequest_pending (w : Requester) (r : Request) (s : State) :
    (postRequest w r s).pending = s.pending := rfl

/-! ### `clearSyncFlags` -/

@[simp] theorem clearSyncFlags_straps (s : State) :
    (clearSyncFlags s).straps = s.straps := rfl

@[simp] theorem clearSyncFlags_cl (s : State) :
    (clearSyncFlags s).cl = s.cl := rfl

@[simp] theorem clearSyncFlags_domains (s : State) :
    (clearSyncFlags s).domains = s.domains := rfl

@[simp] theorem clearSyncFlags_abortval (s : State) :
    (clearSyncFlags s).abortval = s.abortval := rfl

@[simp] theorem clearSyncFlags_store (s : State) :
    (clearSyncFlags s).store = s.store := rfl

@[simp] theorem clearSyncFlags_queue (s : State) :
    (clearSyncFlags s).queue = s.queue.map (fun g => { g with sync := false }) := rfl

@[simp] theorem clearSyncFlags_engine (s : State) :
    (clearSyncFlags s).engine = s.engine := rfl

@[simp] theorem clearSyncFlags_port (s : State) :
    (clearSyncFlags s).port = s.port := rfl

@[simp] theorem clearSyncFlags_diag (s : State) :
    (clearSyncFlags s).diag = s.diag := rfl

@[simp] theorem clearSyncFlags_host (s : State) :
    (clearSyncFlags s).host = s.host := rfl

@[simp] theorem clearSyncFlags_ticks (s : State) :
    (clearSyncFlags s).ticks = s.ticks := rfl

@[simp] theorem clearSyncFlags_power (s : State) :
    (clearSyncFlags s).power = s.power := rfl

@[simp] theorem clearSyncFlags_mgmt (s : State) :
    (clearSyncFlags s).mgmt = s.mgmt := rfl

@[simp] theorem clearSyncFlags_array (s : State) :
    (clearSyncFlags s).array = s.array := rfl

@[simp] theorem clearSyncFlags_pending (s : State) :
    (clearSyncFlags s).pending = s.pending := rfl

/-! ### Four values -/

@[simp] theorem Four.get_set_same {α : Type} (v : Four α) (d : Ix4) (x : α) : (v.set d x).get d = x := by
  cases d <;> rfl

theorem Four.get_set_of_ne {α : Type} (v : Four α) {d e : Ix4} (x : α) (h : e ≠ d) :
    (v.set d x).get e = v.get e := by
  cases d <;> cases e <;> first | rfl | exact absurd rfl h

theorem Four.get_set {α : Type} (v : Four α) (d e : Ix4) (x : α) :
    (v.set d x).get e = if e = d then x else v.get e := by
  cases d <;> cases e <;> rfl

@[simp] theorem Four.get_ofFn {α : Type} (f : Ix4 → α) (d : Ix4) : (Four.ofFn f).get d = f d := by
  cases d <;> rfl

theorem Four.ext_get {α : Type} {v w : Four α} (h : ∀ d, v.get d = w.get d) : v = w := by
  cases v; cases w
  have h0 := h .i0; have h1 := h .i1; have h2 := h .i2; have h3 := h .i3
  simp only [Four.get] at h0 h1 h2 h3
  subst h0 h1 h2 h3; rfl

@[simp] theorem Four.set_get_self {α : Type} (v : Four α) (d : Ix4) : v.set d (v.get d) = v := by
  cases d <;> rfl

@[simp] theorem Four.set_set {α : Type} (v : Four α) (d : Ix4) (x y : α) : (v.set d x).set d y = v.set d y := by
  cases d <;> rfl

theorem modDomain_get_same (d : Dom) (f : Domain → Domain) (s : State) :
    (modDomain d f s).domains.get d = f (s.domains.get d) := by simp

theorem modDomain_get_of_ne {d e : Dom} (f : Domain → Domain) (s : State) (h : e ≠ d) :
    (modDomain d f s).domains.get e = s.domains.get e := by
  simp [Four.get_set_of_ne _ _ h]

/-! ### Counters and flags -/

@[simp] theorem Counters.get_set_same (c : Counters) (k : CounterId) (v : Word) : (c.set k v).get k = v := by
  cases k <;> rfl

theorem Counters.get_set_of_ne (c : Counters) {j k : CounterId} (v : Word) (h : j ≠ k) :
    (c.set k v).get j = c.get j := by
  cases j <;> cases k <;> first | rfl | exact absurd rfl h

theorem FlagId.num_lt (f : FlagId) : f.num < 13 := by cases f <;> decide

theorem FlagId.num_injective {f g : FlagId} (h : f.num = g.num) : f = g := by
  cases f <;> cases g <;> first | rfl | exact absurd h (by decide)

theorem setFlag_flag_same (f : FlagId) (s : State) : (setFlag f s).flag f = true := by
  simp [State.flag, FlagId.bit, FlagId.num_lt]

theorem setFlag_flag_of_ne {f g : FlagId} (s : State) (h : g ≠ f) : (setFlag f s).flag g = s.flag g := by
  have hn : f.num ≠ g.num := fun e => h (FlagId.num_injective e.symm)
  simp [State.flag, FlagId.bit, BitVec.getLsbD_twoPow, hn]

end Sys2Proof.Machine
end

