-- ==== Sys2Proof/Laws/HostLevels.lean ====
section
/-! SUPPORT. The rules that decide an access never look at its strobes again (R65): each shared operation commutes with
`seenAs`, which ends the strobes of the access in progress early, or not, and puts levels on the host bus. A proof about an
access whose strobes ended early cites these lemmas instead of unfolding the operations. -/

namespace Sys2Proof.Machine

/-- The state with the strobes of the access ended early, where `early` says so, and the levels asserted again `again`. -/
def seenAs (early : Bool) (again : Option HostBus) (s : State) : State :=
  withAgain again (if early then endedEarly s else s)

theorem seenAs_early (again : Option HostBus) (s : State) : seenAs true again s = withAgain again (endedEarly s) := rfl

theorem seenAs_kept (again : Option HostBus) (s : State) : seenAs false again s = withAgain again s := rfl

section Fields

variable (early : Bool) (again : Option HostBus) (s : State)

@[simp] theorem seenAs_straps : (seenAs early again s).straps = s.straps := by cases early <;> rfl
@[simp] theorem seenAs_cl : (seenAs early again s).cl = s.cl := by cases early <;> rfl
@[simp] theorem seenAs_domains : (seenAs early again s).domains = s.domains := by cases early <;> rfl
@[simp] theorem seenAs_abortval : (seenAs early again s).abortval = s.abortval := by cases early <;> rfl
@[simp] theorem seenAs_store : (seenAs early again s).store = s.store := by cases early <;> rfl
@[simp] theorem seenAs_queue : (seenAs early again s).queue = s.queue := by cases early <;> rfl
@[simp] theorem seenAs_engine : (seenAs early again s).engine = s.engine := by cases early <;> rfl
@[simp] theorem seenAs_port : (seenAs early again s).port = s.port := by cases early <;> rfl
@[simp] theorem seenAs_diag : (seenAs early again s).diag = s.diag := by cases early <;> rfl
@[simp] theorem seenAs_ticks : (seenAs early again s).ticks = s.ticks := by cases early <;> rfl
@[simp] theorem seenAs_power : (seenAs early again s).power = s.power := by cases early <;> rfl
@[simp] theorem seenAs_mgmt : (seenAs early again s).mgmt = s.mgmt := by cases early <;> rfl
@[simp] theorem seenAs_array : (seenAs early again s).array = s.array := by cases early <;> rfl
@[simp] theorem seenAs_pending : (seenAs early again s).pending = s.pending := by cases early <;> rfl

@[simp] theorem seenAs_host : (seenAs early again s).host
    = { s.host with port := if early then portEndedEarly s.host.port else s.host.port, again := again } := by
  cases early <;> rfl

end Fields

/-! ### Views of the state -/

@[simp] theorem freeCount_seenAs (e : Bool) (x : Option HostBus) (s : State) : freeCount (seenAs e x s) = freeCount s := by
  cases e <;> rfl

@[simp] theorem slotFree_seenAs (e : Bool) (x : Option HostBus) (s : State) : slotFree (seenAs e x s) = slotFree s := by
  cases e <;> rfl

@[simp] theorem drainPending_seenAs (e : Bool) (x : Option HostBus) (s : State) :
    drainPending (seenAs e x s) = drainPending s := by cases e <;> rfl

@[simp] theorem canBegin_seenAs (e : Bool) (x : Option HostBus) (s : State) : canBegin (seenAs e x s) = canBegin s := by
  cases e <;> rfl

@[simp] theorem coalesces_seenAs (e : Bool) (x : Option HostBus) (s : State) (d : Dom) (a : Addr) :
    coalesces (seenAs e x s) d a = coalesces s d a := by cases e <;> rfl

@[simp] theorem atCeiling_seenAs (e : Bool) (x : Option HostBus) (s : State) (d : Dom) :
    atCeiling (seenAs e x s) d = atCeiling s d := by cases e <;> rfl

@[simp] theorem autoTag_seenAs (e : Bool) (x : Option HostBus) (s : State) (d : Dom) :
    autoTag (seenAs e x s) d = autoTag s d := by cases e <;> rfl

@[simp] theorem engineRequest_seenAs (e : Bool) (x : Option HostBus) (s : State) :
    engineRequest (seenAs e x s) = engineRequest s := by cases e <;> rfl

@[simp] theorem heldFor_seenAs (e : Bool) (x : Option HostBus) (s : State) : heldFor (seenAs e x s) = heldFor s := by
  unfold heldFor
  cases e <;> cases h : s.host.port <;> simp [h, portEndedEarly]

@[simp] theorem classify_seenAs (e : Bool) (x : Option HostBus) (s : State) (a : Addr) :
    classify (seenAs e x s) a = classify s a := by cases e <;> rfl

@[simp] theorem classDropCause_seenAs (e : Bool) (x : Option HostBus) (s : State) (c : Class) :
    classDropCause (seenAs e x s) c = classDropCause s c := by cases e <;> rfl

@[simp] theorem snapshot_seenAs (e : Bool) (x : Option HostBus) (s : State) (r : Reg) :
    snapshot (seenAs e x s) r = snapshot s r := by cases e <;> cases r <;> rfl

@[simp] theorem ageReload_seenAs (e : Bool) (x : Option HostBus) (s : State) (d : Dom) :
    ageReload (seenAs e x s) d = ageReload s d := by cases e <;> rfl

@[simp] theorem bothLanes_seenAs (e : Bool) (x : Option HostBus) (s : State) (d : Dom) (a : Addr) :
    bothLanes (seenAs e x s) d a = bothLanes s d a := by cases e <;> rfl

@[simp] theorem anyLane_seenAs (e : Bool) (x : Option HostBus) (s : State) (d : Dom) (a : Addr) :
    anyLane (seenAs e x s) d a = anyLane s d a := by cases e <;> rfl

@[simp] theorem mergedWord_seenAs (e : Bool) (x : Option HostBus) (s : State) (d : Dom) (a : Addr) (w : Word) :
    mergedWord (seenAs e x s) d a w = mergedWord s d a w := by cases e <;> rfl

@[simp] theorem headCount_seenAs (e : Bool) (x : Option HostBus) (s : State) :
    headCount (seenAs e x s) = headCount s := by cases e <;> rfl

@[simp] theorem interrupted_seenAs (e : Bool) (x : Option HostBus) (s : State) (left : Option Word) :
    interrupted left (seenAs e x s) = interrupted left s := by cases e <;> rfl

/-! ### The shared operations -/

section Operations

variable (e : Bool) (x : Option HostBus) (s : State)

@[simp] theorem setFlag_seenAs (f : FlagId) : setFlag f (seenAs e x s) = seenAs e x (setFlag f s) := by cases e <;> rfl
@[simp] theorem bump_seenAs (c : CounterId) : bump c (seenAs e x s) = seenAs e x (bump c s) := by cases e <;> rfl
@[simp] theorem modDomain_seenAs (d : Dom) (f : Domain → Domain) :
    modDomain d f (seenAs e x s) = seenAs e x (modDomain d f s) := by cases e <;> rfl
@[simp] theorem setEngine_seenAs (n : EngineState) : setEngine n (seenAs e x s) = seenAs e x (setEngine n s) := by
  cases e <;> rfl
@[simp] theorem clearSyncFlags_seenAs : clearSyncFlags (seenAs e x s) = seenAs e x (clearSyncFlags s) := by
  cases e <;> rfl
@[simp] theorem postRequest_seenAs (w : Requester) (r : Request) :
    postRequest w r (seenAs e x s) = seenAs e x (postRequest w r s) := by cases e <;> rfl

theorem withPower_seenAs (p : Power) : { seenAs e x s with power := p } = seenAs e x { s with power := p } := by
  cases e <;> rfl

theorem withStore_seenAs (v : Store) : { seenAs e x s with store := v } = seenAs e x { s with store := v } := by
  cases e <;> rfl

theorem withQueue_seenAs (q : List GroupRecord) : { seenAs e x s with queue := q } = seenAs e x { s with queue := q } := by
  cases e <;> rfl

theorem withEngine_seenAs (v : Engine) : { seenAs e x s with engine := v } = seenAs e x { s with engine := v } := by
  cases e <;> rfl

theorem withPort_seenAs (p : Port) : { seenAs e x s with port := p } = seenAs e x { s with port := p } := by
  cases e <;> rfl

@[simp] theorem completeQuiet_seenAs : completeQuiet (seenAs e x s) = seenAs e x (completeQuiet s) := by
  unfold completeQuiet
  rcases h : s.host.port with _ | p | w | _ <;> cases e <;>
    simp [h, seenAs, withAgain, endedEarly, portEndedEarly, setHost]
  cases p.ended <;> rfl

@[simp] theorem completeRead_seenAs (w : Word) : completeRead w (seenAs e x s) = seenAs e x (completeRead w s) := by
  unfold completeRead
  rcases h : s.host.port with _ | p | w | _ <;> cases e <;>
    simp [h, seenAs, withAgain, endedEarly, portEndedEarly, setHost]
  cases p.ended <;> rfl

@[simp] theorem setHold_seenAs (k : Hold) : setHold k (seenAs e x s) = seenAs e x (setHold k s) := by
  unfold setHold
  rcases h : s.host.port with _ | p | w | _ <;> cases e <;>
    simp [h, seenAs, withAgain, endedEarly, portEndedEarly, setHost]

@[simp] theorem setDropcause_seenAs (c : DropCause) :
    { seenAs e x s with host := { (seenAs e x s).host with dropcause := c } }
      = seenAs e x { s with host := { s.host with dropcause := c } } := by cases e <;> rfl

@[simp] theorem dropWrite_seenAs (c : DropCause) : dropWrite c (seenAs e x s) = seenAs e x (dropWrite c s) := by
  unfold dropWrite
  rw [setDropcause_seenAs]
  simp [completeQuiet_seenAs]

@[simp] theorem requestEngine_seenAs : requestEngine (seenAs e x s) = seenAs e x (requestEngine s) := by
  unfold requestEngine
  rw [engineRequest_seenAs]
  split <;> simp

theorem apply_ite_seenAs (c : Prop) [Decidable c] (a b : State) :
    (if c then seenAs e x a else seenAs e x b) = seenAs e x (if c then a else b) := by split <;> rfl

@[simp] theorem loadAge_seenAs (d : Dom) : loadAge d (seenAs e x s) = seenAs e x (loadAge d s) := by
  unfold loadAge
  simp
  repeat' split
  all_goals rfl

@[simp] theorem flowAfterTake_seenAs : flowAfterTake (seenAs e x s) = seenAs e x (flowAfterTake s) := by
  unfold flowAfterTake
  rw [seenAs_store, freeCount_seenAs, withStore_seenAs, setFlag_seenAs, bump_seenAs]
  split <;> rfl

@[simp] theorem flowAfterRelease_seenAs (n : Nat) :
    flowAfterRelease n (seenAs e x s) = seenAs e x (flowAfterRelease n s) := by
  unfold flowAfterRelease
  rw [seenAs_store, freeCount_seenAs, withStore_seenAs]
  split <;> rfl

@[simp] theorem flowRetest_seenAs : flowRetest (seenAs e x s) = seenAs e x (flowRetest s) := by
  unfold flowRetest
  rw [seenAs_store, freeCount_seenAs, withStore_seenAs, flowAfterTake_seenAs]
  split
  · rfl
  · split <;> rfl

@[simp] theorem breakCore_seenAs (d : Dom) (c : BreakCause) :
    breakCore d c (seenAs e x s) = seenAs e x (breakCore d c s) := by
  unfold breakCore
  simp
  repeat' split
  all_goals rfl

@[simp] theorem breakDomain_seenAs (d : Dom) (c : BreakCause) :
    breakDomain d c (seenAs e x s) = seenAs e x (breakDomain d c s) := by
  unfold breakDomain
  simp

@[simp] theorem commitToBroken_seenAs (d : Dom) :
    commitToBroken d (seenAs e x s) = seenAs e x (commitToBroken d s) := by
  unfold commitToBroken
  simp

@[simp] theorem breakIfOpen_seenAs (c : BreakCause) (d : Dom) :
    breakIfOpen c (seenAs e x s) d = seenAs e x (breakIfOpen c s d) := by
  unfold breakIfOpen
  simp
  split <;> rfl

@[simp] theorem breakAll_seenAs (c : BreakCause) : breakAll c (seenAs e x s) = seenAs e x (breakAll c s) := by
  unfold breakAll
  simp [Ix4.all]

@[simp] theorem queueGroup_seenAs (d : Dom) (tag : Word) (b : Bool) :
    queueGroup d tag b (seenAs e x s) = seenAs e x (queueGroup d tag b s) := by
  cases e <;> rfl

@[simp] theorem beginHead_seenAs : beginHead (seenAs e x s) = seenAs e x (beginHead s) := by
  unfold beginHead
  simp

@[simp] theorem tryBegin_seenAs : tryBegin (seenAs e x s) = seenAs e x (tryBegin s) := by
  unfold tryBegin
  simp
  repeat' split
  all_goals rfl

@[simp] theorem completeSync_seenAs : completeSync (seenAs e x s) = seenAs e x (completeSync s) := by
  unfold completeSync
  simp
  repeat' split
  all_goals rfl

@[simp] theorem commitQueued_seenAs (d : Dom) (tag : Word) :
    commitQueued d tag (seenAs e x s) = seenAs e x (commitQueued d tag s) := by
  unfold commitQueued
  simp
  repeat' split
  all_goals rfl

@[simp] theorem grantCommit_seenAs : grantCommit (seenAs e x s) = seenAs e x (grantCommit s) := by
  unfold grantCommit
  simp
  repeat' split
  all_goals rfl

@[simp] theorem grantPending_seenAs (d : Dom) :
    grantPending (seenAs e x s) d = seenAs e x (grantPending s d) := by
  unfold grantPending
  simp
  split <;> rfl

@[simp] theorem grantSlots_seenAs : grantSlots (seenAs e x s) = seenAs e x (grantSlots s) := by
  unfold grantSlots
  simp [Ix4.all]

@[simp] theorem reloadIfIdle_seenAs (d : Dom) : reloadIfIdle d (seenAs e x s) = seenAs e x (reloadIfIdle d s) := by
  unfold reloadIfIdle
  simp
  repeat' split
  all_goals rfl

@[simp] theorem takeCoalesce_seenAs (d : Dom) (a : Addr) (l : Lanes) (w : Word) :
    takeCoalesce d a l w (seenAs e x s) = seenAs e x (takeCoalesce d a l w s) := by
  unfold takeCoalesce
  simp

@[simp] theorem takeNew_seenAs (d : Dom) (a : Addr) (l : Lanes) (w : Word) :
    takeNew d a l w (seenAs e x s) = seenAs e x (takeNew d a l w s) := by
  unfold takeNew
  simp
  repeat' split
  all_goals first | rfl | simp_all

@[simp] theorem placeNow_seenAs (d : Dom) (a : Addr) (l : Lanes) (w : Word) :
    placeNow d a l w (seenAs e x s) = seenAs e x (placeNow d a l w s) := by
  unfold placeNow
  simp
  repeat' split
  all_goals rfl

@[simp] theorem examineWrite_seenAs (b : Bool) (d : Dom) (a : Addr) (l : Lanes) (w : Word) :
    examineWrite b d a l w (seenAs e x s) = seenAs e x (examineWrite b d a l w s) := by
  unfold examineWrite
  simp
  repeat' split
  all_goals rfl

@[simp] theorem examineCommit_seenAs (b : Bool) (d : Dom) (tag : Word) :
    examineCommit b d tag (seenAs e x s) = seenAs e x (examineCommit b d tag s) := by
  unfold examineCommit
  simp
  repeat' split
  all_goals rfl

@[simp] theorem examine_seenAs (b : Bool) : examine b (seenAs e x s) = seenAs e x (examine b s) := by
  unfold examine
  rcases h : s.host.port with _ | p | w | _ <;> cases e <;> simp [h, portEndedEarly] <;> split <;> rfl

@[simp] theorem beginAndExamine_seenAs : beginAndExamine (seenAs e x s) = seenAs e x (beginAndExamine s) := by
  unfold beginAndExamine
  simp
  repeat' split
  all_goals rfl

@[simp] theorem holdForRead_seenAs (k : Hold) (a : Addr) :
    holdForRead k a (seenAs e x s) = seenAs e x (holdForRead k a s) := by
  unfold holdForRead
  simp

@[simp] theorem stagedRead_seenAs (d : Dom) (a : Addr) :
    stagedRead d a (seenAs e x s) = seenAs e x (stagedRead d a s) := by
  unfold stagedRead
  simp
  repeat' split
  all_goals rfl

@[simp] theorem classifiedRead_seenAs (c : Class) (a : Addr) :
    classifiedRead c a (seenAs e x s) = seenAs e x (classifiedRead c a s) := by
  unfold classifiedRead
  simp
  repeat' split
  all_goals rfl

@[simp] theorem dropParity_seenAs : dropParity (seenAs e x s) = seenAs e x (dropParity s) := by
  unfold dropParity
  simp

@[simp] theorem stagedWrite_seenAs (d : Dom) (a : Addr) (l : Lanes) (w : Word) (b : Bool) :
    stagedWrite d a l w b (seenAs e x s) = seenAs e x (stagedWrite d a l w b s) := by
  unfold stagedWrite
  simp
  repeat' split
  all_goals rfl

@[simp] theorem abortGroup_seenAs (d : Dom) : abortGroup d (seenAs e x s) = seenAs e x (abortGroup d s) := by
  unfold abortGroup
  simp

@[simp] theorem holdCommit_seenAs (d : Dom) (tag : Word) :
    holdCommit d tag (seenAs e x s) = seenAs e x (holdCommit d tag s) := by
  unfold holdCommit
  simp

@[simp] theorem commitGroup_seenAs (d : Dom) (tag : Word) :
    commitGroup d tag (seenAs e x s) = seenAs e x (commitGroup d tag s) := by
  unfold commitGroup
  simp
  repeat' split
  all_goals rfl

@[simp] theorem commitCellWrite_seenAs (d : Dom) (l : Lanes) (w : Word) (b : Bool) :
    commitCellWrite d l w b (seenAs e x s) = seenAs e x (commitCellWrite d l w b s) := by
  unfold commitCellWrite
  simp
  repeat' split
  all_goals first | rfl | simp_all

@[simp] theorem passWrite_seenAs (a : Addr) (l : Lanes) (w : Word) (b : Bool) :
    passWrite a l w b (seenAs e x s) = seenAs e x (passWrite a l w b s) := by
  unfold passWrite
  simp
  repeat' split
  all_goals rfl

@[simp] theorem classifiedWrite_seenAs (c : Class) (a : Addr) (l : Lanes) (w : Word) (p : Option (BitVec 2)) :
    classifiedWrite c a l w p (seenAs e x s) = seenAs e x (classifiedWrite c a l w p s) := by
  unfold classifiedWrite
  simp
  repeat' split
  all_goals rfl

@[simp] theorem presentAccess_seenAs (a : Access) :
    presentAccess a (seenAs e x s) = seenAs e x (presentAccess a s) := by
  unfold presentAccess
  simp
  repeat' split
  all_goals rfl

@[simp] theorem releaseHeld_seenAs : releaseHeld (seenAs e x s) = seenAs e x (releaseHeld s) := by
  unfold releaseHeld
  rcases h : s.host.port with _ | p | w | _ <;> cases e <;> simp [h, portEndedEarly] <;> split <;> try rfl
  · rw [← presentAccess_seenAs false]; simp [seenAs, withAgain, setHost]
  · rw [← presentAccess_seenAs true]; simp [seenAs, withAgain, endedEarly, portEndedEarly, setHost]

@[simp] theorem hostReadDone_seenAs (w : Word) : hostReadDone w (seenAs e x s) = seenAs e x (hostReadDone w s) := by
  unfold hostReadDone
  rcases h : s.host.port with _ | p | w | _ <;> cases e <;> simp [h, portEndedEarly] <;> split <;> try simp
  all_goals split <;> simp

@[simp] theorem hostAccessDone_seenAs (w : Word) :
    hostAccessDone w (seenAs e x s) = seenAs e x (hostAccessDone w s) := by
  unfold hostAccessDone
  simp
  repeat' split
  all_goals rfl

@[simp] theorem hostTimedOut_seenAs : hostTimedOut (seenAs e x s) = seenAs e x (hostTimedOut s) := by
  unfold hostTimedOut
  dsimp only
  rw [seenAs_port, withPort_seenAs, setFlag_seenAs, heldFor_seenAs]
  split <;> first | rfl | simp

@[simp] theorem goOn_seenAs (n : EngineState) : goOn n (seenAs e x s) = seenAs e x (goOn n s) := by
  unfold goOn
  simp

@[simp] theorem enter_seenAs (n : EngineState) : enter n (seenAs e x s) = seenAs e x (enter n s) := by
  unfold enter
  simp

@[simp] theorem retire_seenAs : retire (seenAs e x s) = seenAs e x (retire s) := by
  unfold retire
  dsimp only
  rw [seenAs_queue]
  split
  · rfl
  · rw [withQueue_seenAs]
    simp only [setEngine_seenAs, modDomain_seenAs, bump_seenAs, setFlag_seenAs, freeCount_seenAs, flowAfterRelease_seenAs,
      completeSync_seenAs, apply_ite_seenAs, grantSlots_seenAs, tryBegin_seenAs, examine_seenAs]

@[simp] theorem copyingDone_seenAs (i w : Nat) : copyingDone i w (seenAs e x s) = seenAs e x (copyingDone i w s) := by
  unfold copyingDone
  simp
  repeat' split
  all_goals rfl

@[simp] theorem markingDone_seenAs (k : Nat) : markingDone k (seenAs e x s) = seenAs e x (markingDone k s) := by
  unfold markingDone
  simp
  repeat' split
  all_goals rfl

@[simp] theorem homingDone_seenAs (i : Nat) : homingDone i (seenAs e x s) = seenAs e x (homingDone i s) := by
  unfold homingDone
  simp
  repeat' split
  all_goals rfl

@[simp] theorem endRecovery_seenAs (n : EngineState) :
    endRecovery n (seenAs e x s) = seenAs e x (endRecovery n s) := by
  unfold endRecovery
  simp

@[simp] theorem failRecovery_seenAs (c : BlockCause) :
    failRecovery c (seenAs e x s) = seenAs e x (failRecovery c s) := by
  unfold failRecovery
  simp

@[simp] theorem replayOn_seenAs (h : List Word) (r : List JournalRecord) :
    replayOn h r (seenAs e x s) = seenAs e x (replayOn h r s) := by
  unfold replayOn
  simp
  repeat' split
  all_goals rfl

@[simp] theorem headerRead_seenAs (h : List Word) : headerRead h (seenAs e x s) = seenAs e x (headerRead h s) := by
  unfold headerRead
  simp
  repeat' split
  all_goals rfl

@[simp] theorem recordRead_seenAs (h ws : List Word) :
    recordRead h ws (seenAs e x s) = seenAs e x (recordRead h ws s) := by
  unfold recordRead
  simp
  repeat' split
  all_goals rfl

@[simp] theorem replayDone_seenAs (h : List Word) : replayDone h (seenAs e x s) = seenAs e x (replayDone h s) := by
  unfold replayDone
  rw [seenAs_engine, withEngine_seenAs]
  simp

@[simp] theorem recoveryDone_seenAs (r : Recovery) (w : Word) :
    recoveryDone r w (seenAs e x s) = seenAs e x (recoveryDone r w s) := by
  unfold recoveryDone
  simp
  repeat' split
  all_goals rfl

@[simp] theorem startRecovery_seenAs : startRecovery (seenAs e x s) = seenAs e x (startRecovery s) := by
  unfold startRecovery
  rw [seenAs_engine, withEngine_seenAs]
  simp

@[simp] theorem engineAccessDone_seenAs (w : Word) :
    engineAccessDone w (seenAs e x s) = seenAs e x (engineAccessDone w s) := by
  unfold engineAccessDone
  simp
  repeat' split
  all_goals rfl

@[simp] theorem fault_seenAs (p : Phase) (i : Nat) : fault p i (seenAs e x s) = seenAs e x (fault p i s) := by
  unfold fault
  simp

@[simp] theorem engineTimedOut_seenAs : engineTimedOut (seenAs e x s) = seenAs e x (engineTimedOut s) := by
  unfold engineTimedOut
  dsimp only
  rw [seenAs_port, withPort_seenAs, setFlag_seenAs, seenAs_engine]
  split
  any_goals split
  all_goals simp

@[simp] theorem accessComplete_seenAs (ad : Option Word) :
    accessComplete ad (seenAs e x s) = seenAs e x (accessComplete ad s) := by
  unfold accessComplete
  dsimp only
  rw [seenAs_port, seenAs_array, seenAs_diag]
  split
  · rfl
  · split
    · rw [← hostAccessDone_seenAs]; cases e <;> rfl
    · rw [← engineAccessDone_seenAs]; cases e <;> rfl
    · cases e <;> rfl

@[simp] theorem accessTimeout_seenAs (left : Option Word) :
    accessTimeout left (seenAs e x s) = seenAs e x (accessTimeout left s) := by
  unfold accessTimeout
  dsimp only
  rw [seenAs_port, interrupted_seenAs, seenAs_diag]
  split
  · rfl
  · split
    · split
      · rw [← hostTimedOut_seenAs]; cases e <;> rfl
      · rw [← engineTimedOut_seenAs]; cases e <;> rfl
      · cases e <;> rfl
    · rfl

@[simp] theorem abandonHead_seenAs : abandonHead (seenAs e x s) = seenAs e x (abandonHead s) := by
  unfold abandonHead
  dsimp only
  rw [seenAs_queue]
  split
  · rfl
  · rw [withQueue_seenAs]
    simp only [setEngine_seenAs, freeCount_seenAs, flowAfterRelease_seenAs, completeSync_seenAs, apply_ite_seenAs,
      grantSlots_seenAs, tryBegin_seenAs, examine_seenAs]

@[simp] theorem consumeHeldCommit_seenAs : consumeHeldCommit (seenAs e x s) = seenAs e x (consumeHeldCommit s) := by
  unfold consumeHeldCommit
  simp
  repeat' split
  all_goals rfl

@[simp] theorem stageClear_seenAs : stageClear (seenAs e x s) = seenAs e x (stageClear s) := by
  have hk : keptRecords (seenAs e x s) = keptRecords s := by cases e <;> rfl
  have hd : discardedRecords (seenAs e x s) = discardedRecords s := by cases e <;> rfl
  unfold stageClear
  dsimp only
  rw [hk, hd, breakAll_seenAs, consumeHeldCommit_seenAs, withQueue_seenAs]
  simp only [freeCount_seenAs, flowAfterRelease_seenAs, completeSync_seenAs, apply_ite_seenAs, examine_seenAs]

@[simp] theorem holdExpiry_seenAs : holdExpiry (seenAs e x s) = seenAs e x (holdExpiry s) := by
  unfold holdExpiry
  rcases h : s.host.port with _ | p | w | _ <;> cases e <;> simp [h, portEndedEarly] <;> split <;> try rfl
  all_goals split <;> simp

@[simp] theorem ageExpiry_seenAs (d : Dom) : ageExpiry d (seenAs e x s) = seenAs e x (ageExpiry d s) := by
  unfold ageExpiry
  simp
  repeat' split
  all_goals rfl

@[simp] theorem endHeldByPower_seenAs : endHeldByPower (seenAs e x s) = seenAs e x (endHeldByPower s) := by
  unfold endHeldByPower
  simp
  repeat' split
  all_goals rfl

@[simp] theorem powerEntry_seenAs : powerEntry (seenAs e x s) = seenAs e x (powerEntry s) := by
  unfold powerEntry
  rw [seenAs_power, withPower_seenAs]
  simp

@[simp] theorem powerReturn_seenAs : powerReturn (seenAs e x s) = seenAs e x (powerReturn s) := by
  unfold powerReturn
  rw [seenAs_power, withPower_seenAs]
  simp

end Operations

end Sys2Proof.Machine
end

