-- ==== Sys2Proof/Laws/Memory.lean ====
section
/-! SUPPORT. The array's contents: every operation over them keeps the canonical form, a written lane reads back, every
other lane reads as before, and the reset contents are canonical. -/

namespace Sys2Proof.Machine

/-- A cell below all listed cells reads as an unlisted one. -/
theorem Memory.get_below {m : List Host.Cell} {lo n : Nat} (h : Memory.wfFrom lo m = true) (hn : n < lo) :
    Memory.get m n = blankLane := by
  induction m generalizing lo with
  | nil => rfl
  | cons c rest ih =>
    obtain ⟨k, b⟩ := c
    simp only [Memory.wfFrom, Bool.and_eq_true, decide_eq_true_eq] at h
    simp only [Memory.get]
    rw [if_neg (by omega)]
    exact ih h.2 (by omega)

/-- The canonical form from a cell holds from every lower one. -/
theorem Memory.wfFrom_mono {m : List Host.Cell} {lo lo' : Nat} (h : Memory.wfFrom lo m = true) (hl : lo' ≤ lo) :
    Memory.wfFrom lo' m = true := by
  cases m with
  | nil => rfl
  | cons c rest =>
    obtain ⟨k, b⟩ := c
    simp only [Memory.wfFrom, Bool.and_eq_true, decide_eq_true_eq] at h ⊢
    exact ⟨⟨by omega, h.1.2⟩, h.2⟩

theorem Memory.wfFrom_cons {m : List Host.Cell} {lo n : Nat} (b : Byte) (h : Memory.wfFrom (n + 1) m = true)
    (hl : lo ≤ n) : Memory.wfFrom lo (Memory.cons n b m) = true := by
  unfold Memory.cons
  split
  · exact Memory.wfFrom_mono h (by omega)
  · rename_i hb
    simp only [Memory.wfFrom, Bool.and_eq_true, decide_eq_true_eq]
    exact ⟨⟨hl, by simpa using hb⟩, h⟩

theorem Memory.wfFrom_set {m : List Host.Cell} {lo n : Nat} (b : Byte) (h : Memory.wfFrom lo m = true)
    (hl : lo ≤ n) : Memory.wfFrom lo (Memory.set m n b) = true := by
  induction m generalizing lo with
  | nil => exact Memory.wfFrom_cons b rfl hl
  | cons c rest ih =>
    obtain ⟨k, v⟩ := c
    have hw := h
    simp only [Memory.wfFrom, Bool.and_eq_true, decide_eq_true_eq] at h
    simp only [Memory.set]
    split
    · refine Memory.wfFrom_cons b ?_ hl
      simp only [Memory.wfFrom, Bool.and_eq_true, decide_eq_true_eq]
      exact ⟨⟨by omega, h.1.2⟩, h.2⟩
    · split
      · rename_i hk
        subst hk
        exact Memory.wfFrom_cons b h.2 hl
      · simp only [Memory.wfFrom, Bool.and_eq_true, decide_eq_true_eq]
        exact ⟨h.1, ih h.2 (by omega)⟩

/-- Writing a lane keeps the canonical form. -/
theorem Memory.wf_set {m : List Host.Cell} (n : Nat) (b : Byte) (h : Memory.wf m = true) :
    Memory.wf (Memory.set m n b) = true := Memory.wfFrom_set b h (Nat.zero_le n)

/-- Storing a word in its lanes keeps the canonical form. -/
theorem Memory.wf_store {m : List Host.Cell} (a : Addr) (l : Lanes) (w : Word) (h : Memory.wf m = true) :
    Memory.wf (Memory.store m a l w) = true := by
  unfold Memory.store
  dsimp only
  split <;> split <;> simp_all [Memory.wf_set]

/-- What an interrupted write leaves is canonical. -/
theorem wf_interrupted (left : Option Word) (s : State) (h : Memory.wf s.array = true) :
    Memory.wf (interrupted left s) = true := by
  unfold interrupted
  split
  · split
    · exact Memory.wf_store _ _ _ h
    · exact h
  · exact h

/-- A cell that is not written reads as before, whatever the form of the contents. -/
theorem Memory.get_set_of_ne (m : List Host.Cell) {n k : Nat} (b : Byte) (h : k ≠ n) :
    Memory.get (Memory.set m n b) k = Memory.get m k := by
  have hcons : ∀ m' : List Host.Cell, Memory.get (Memory.cons n b m') k = Memory.get m' k := by
    intro m'
    unfold Memory.cons
    split
    · rfl
    · simp only [Memory.get, if_neg (fun e : n = k => h e.symm)]
  induction m with
  | nil => exact hcons []
  | cons c rest ih =>
    obtain ⟨j, v⟩ := c
    simp only [Memory.set]
    split
    · exact hcons _
    · split
      · rename_i hj
        subst hj
        rw [hcons]
        simp only [Memory.get, if_neg (fun e : n = k => h e.symm)]
      · simp only [Memory.get, ih]

theorem Memory.get_set_same_from {m : List Host.Cell} {lo n : Nat} (b : Byte) (h : Memory.wfFrom lo m = true) :
    Memory.get (Memory.set m n b) n = b := by
  have hcons : ∀ m' : List Host.Cell, Memory.get m' n = blankLane → Memory.get (Memory.cons n b m') n = b := by
    intro m' hm
    unfold Memory.cons
    split
    · rename_i hb
      rw [hm, hb]
    · simp [Memory.get]
  induction m generalizing lo with
  | nil => exact hcons [] rfl
  | cons c rest ih =>
    obtain ⟨j, v⟩ := c
    have hw := h
    simp only [Memory.wfFrom, Bool.and_eq_true, decide_eq_true_eq] at h
    simp only [Memory.set]
    split
    · refine hcons _ (Memory.get_below (lo := n + 1) ?_ (by omega))
      simp only [Memory.wfFrom, Bool.and_eq_true, decide_eq_true_eq]
      exact ⟨⟨by omega, h.1.2⟩, h.2⟩
    · split
      · rename_i hj
        subst hj
        exact hcons _ (Memory.get_below h.2 (by omega))
      · rename_i hj
        simp only [Memory.get, if_neg (fun e : j = n => hj e.symm)]
        exact ih h.2

/-- A written cell of canonical contents reads back. -/
theorem Memory.get_set_same {m : List Host.Cell} (n : Nat) (b : Byte) (h : Memory.wf m = true) :
    Memory.get (Memory.set m n b) n = b := Memory.get_set_same_from b h

/-- The reset contents are canonical. -/
theorem Memory.wf_reset : Memory.wf State.reset.array = true := rfl

end Sys2Proof.Machine

namespace Sys2Proof

@[simp] theorem Word.lane0_ofLanes (hi lo : Byte) : (Word.ofLanes hi lo).lane0 = lo := by
  refine BitVec.eq_of_getLsbD_eq fun i h => ?_
  have e := BitVec.getLsbD_append (x := hi) (y := lo) (i := i)
  simp only [Word.ofLanes, Word.lane0, BitVec.getLsbD_setWidth]
  erw [e]
  simp [h]

@[simp] theorem Word.lane1_ofLanes (hi lo : Byte) : (Word.ofLanes hi lo).lane1 = hi := by
  refine BitVec.eq_of_getLsbD_eq fun i h => ?_
  have e := BitVec.getLsbD_append (x := hi) (y := lo) (i := 8 + i)
  simp only [Word.ofLanes, Word.lane1, BitVec.getLsbD_extractLsb']
  erw [e]
  simp [h]

end Sys2Proof
end

