-- ==== Sys2Proof/Laws/Operations.lean ====
section
/-! SUPPORT. What the shared operations leave: `sameSettings` holds of each (the straps, the classifier, ABORTVAL, the
diagnostic read, the tick settings, the power filter, the array's contents, the waiting commands, the thresholds, the limits
and the enables are the same), so that a proof cites it instead of unfolding the operation. Then the port's own lemmas. -/

namespace Sys2Proof.Machine

theorem sameSettings_refl (s : State) : sameSettings s s :=
  ⟨rfl, rfl, rfl, rfl, rfl, rfl, rfl, rfl, rfl, rfl, rfl, rfl, rfl, rfl⟩

theorem sameSettings_trans {s t u : State} (h : sameSettings s t) (k : sameSettings t u) : sameSettings s u := by
  obtain ⟨h1, h2, h3, h4, h5, h6, h7, h8, h9, h10, h11, h12, h13, h14⟩ := h
  obtain ⟨k1, k2, k3, k4, k5, k6, k7, k8, k9, k10, k11, k12, k13, k14⟩ := k
  exact ⟨k1.trans h1, k2.trans h2, k3.trans h3, k4.trans h4, k5.trans h5, k6.trans h6, k7.trans h7, k8.trans h8,
    k9.trans h9, k10.trans h10, k11.trans h11, k12.trans h12, k13.trans h13, k14.trans h14⟩

/-! ### The array port -/

/-- An arbitration changes no limit and no error source. -/
theorem Port.arbitrate_limits (p : Port) :
    p.arbitrate.arrto = p.arrto ∧ p.arbitrate.starve = p.starve ∧ p.arbitrate.arrsrc = p.arrsrc := by
  unfold Port.arbitrate
  repeat' split
  all_goals exact ⟨rfl, rfl, rfl⟩

theorem Port.post_limits (w : Requester) (r : Request) (p : Port) :
    (p.post w r).arrto = p.arrto ∧ (p.post w r).starve = p.starve ∧ (p.post w r).arrsrc = p.arrsrc := by
  have hw : (p.wait w r).arrto = p.arrto ∧ (p.wait w r).starve = p.starve ∧ (p.wait w r).arrsrc = p.arrsrc := by
    cases w <;> exact ⟨rfl, rfl, rfl⟩
  unfold Port.post
  split
  · exact hw
  · have ha := Port.arbitrate_limits (p.wait w r)
    exact ⟨ha.1.trans hw.1, ha.2.1.trans hw.2.1, ha.2.2.trans hw.2.2⟩

theorem Port.finish_limits (p : Port) :
    p.finish.arrto = p.arrto ∧ p.finish.starve = p.starve ∧ p.finish.arrsrc = p.arrsrc :=
  Port.arbitrate_limits { p with access := none }

/-- An arbitration leaves a starvation count of at most 15 (R136). -/
theorem Port.arbitrate_starveCount (p : Port) : p.arbitrate.starveCount ≤ 15 := by
  unfold Port.arbitrate
  repeat' split
  all_goals simp only [Port.grantHost, Port.grantEngine, Port.grantMgmt, Port.begin]
  all_goals first | exact Nat.zero_le _ | (split <;> first | exact Nat.min_le_left _ _ | exact Nat.zero_le _)

/-! ### The shared operations -/

theorem sameSettings_setFlag {s t : State} (f : FlagId) (h : sameSettings s t) :
    sameSettings s (setFlag f t) := by
  exact h

theorem sameSettings_bump {s t : State} (c : CounterId) (h : sameSettings s t) :
    sameSettings s (bump c t) := by
  exact h

theorem sameSettings_modDomain {s t : State} (d : Dom) (f : Domain → Domain) (h : sameSettings s t) :
    sameSettings s (modDomain d f t) := by
  exact h

theorem sameSettings_setEngine {s t : State} (e : EngineState) (h : sameSettings s t) :
    sameSettings s (setEngine e t) := by
  exact h

theorem sameSettings_setHost {s t : State} (p : HostPort) (h : sameSettings s t) :
    sameSettings s (setHost p t) := by
  exact h

theorem sameSettings_clearSyncFlags {s t : State}  (h : sameSettings s t) :
    sameSettings s (clearSyncFlags t) := by
  exact h

theorem sameSettings_postRequest {s t : State} (w : Requester) (r : Request) (h : sameSettings s t) :
    sameSettings s (postRequest w r t) := by
  obtain ⟨h1, h2, h3, h4, h5, h6, h7, h8, h9, h10, h11, h12, h13, h14⟩ := h
  exact ⟨h1, h2, h3, h4, h5, h6, h7, h8, h9, h10, h11, (Port.post_limits w r t.port).1.trans h12,
    (Port.post_limits w r t.port).2.1.trans h13, h14⟩

theorem sameSettings_setHold {s t : State} (k : Hold) (h : sameSettings s t) :
    sameSettings s (setHold k t) := by
  unfold setHold
  repeat' first
    | with_reducible exact h
    | with_reducible apply sameSettings_setHost
    | split

theorem sameSettings_completeQuiet {s t : State}  (h : sameSettings s t) :
    sameSettings s (completeQuiet t) := by
  unfold completeQuiet
  repeat' first
    | with_reducible exact h
    | with_reducible apply sameSettings_setHost
    | split

theorem sameSettings_completeRead {s t : State} (w : Word) (h : sameSettings s t) :
    sameSettings s (completeRead w t) := by
  unfold completeRead
  repeat' first
    | with_reducible exact h
    | with_reducible apply sameSettings_setHost
    | split

theorem sameSettings_dropWrite {s t : State} (c : DropCause) (h : sameSettings s t) :
    sameSettings s (dropWrite c t) := by
  unfold dropWrite
  repeat' first
    | with_reducible exact h
    | with_reducible apply sameSettings_setFlag
    | with_reducible apply sameSettings_bump
    | with_reducible apply sameSettings_completeQuiet
    | exact h

theorem sameSettings_requestEngine {s t : State}  (h : sameSettings s t) :
    sameSettings s (requestEngine t) := by
  unfold requestEngine
  repeat' first
    | with_reducible exact h
    | with_reducible apply sameSettings_postRequest
    | split

theorem sameSettings_loadAge {s t : State} (d : Dom) (h : sameSettings s t) :
    sameSettings s (loadAge d t) := by
  unfold loadAge
  repeat' first
    | with_reducible exact h
    | with_reducible apply sameSettings_modDomain
    | split

theorem sameSettings_flowAfterTake {s t : State}  (h : sameSettings s t) :
    sameSettings s (flowAfterTake t) := by
  unfold flowAfterTake
  repeat' first
    | with_reducible exact h
    | with_reducible apply sameSettings_setFlag
    | with_reducible apply sameSettings_bump
    | split
    | exact h

theorem sameSettings_flowAfterRelease {s t : State} (n : Nat) (h : sameSettings s t) :
    sameSettings s (flowAfterRelease n t) := by
  unfold flowAfterRelease
  repeat' first
    | with_reducible exact h
    | split
    | exact h

theorem sameSettings_flowRetest {s t : State}  (h : sameSettings s t) :
    sameSettings s (flowRetest t) := by
  unfold flowRetest
  repeat' first
    | with_reducible exact h
    | with_reducible apply sameSettings_flowAfterTake
    | split
    | exact h

theorem sameSettings_breakCore {s t : State} (d : Dom) (c : BreakCause) (h : sameSettings s t) :
    sameSettings s (breakCore d c t) := by
  unfold breakCore
  repeat' first
    | with_reducible exact h
    | with_reducible apply sameSettings_setFlag
    | with_reducible apply sameSettings_bump
    | with_reducible apply sameSettings_modDomain
    | split

theorem sameSettings_breakDomain {s t : State} (d : Dom) (c : BreakCause) (h : sameSettings s t) :
    sameSettings s (breakDomain d c t) := by
  unfold breakDomain
  repeat' first
    | with_reducible exact h
    | with_reducible apply sameSettings_flowAfterRelease
    | with_reducible apply sameSettings_breakCore

theorem sameSettings_breakIfOpen {s t : State} (c : BreakCause) (d : Dom) (h : sameSettings s t) :
    sameSettings s (breakIfOpen c t d) := by
  unfold breakIfOpen
  repeat' first
    | with_reducible exact h
    | with_reducible apply sameSettings_breakCore
    | split

theorem sameSettings_breakAll {s t : State} (c : BreakCause) (h : sameSettings s t) :
    sameSettings s (breakAll c t) := by
  unfold breakAll
  simp only [Ix4.all, List.foldl]
  repeat' first
    | with_reducible exact h
    | with_reducible apply sameSettings_breakIfOpen

theorem sameSettings_commitToBroken {s t : State} (d : Dom) (h : sameSettings s t) :
    sameSettings s (commitToBroken d t) := by
  unfold commitToBroken
  repeat' first
    | with_reducible exact h
    | with_reducible apply sameSettings_modDomain
    | with_reducible apply sameSettings_dropWrite

theorem sameSettings_queueGroup {s t : State} (d : Dom) (tag : Word) (b : Bool) (h : sameSettings s t) :
    sameSettings s (queueGroup d tag b t) := by
  unfold queueGroup
  repeat' first
    | with_reducible exact h
    | with_reducible apply sameSettings_bump
    | exact h

theorem sameSettings_beginHead {s t : State}  (h : sameSettings s t) :
    sameSettings s (beginHead t) := by
  unfold beginHead
  repeat' first
    | with_reducible exact h
    | with_reducible apply sameSettings_setEngine
    | with_reducible apply sameSettings_requestEngine

theorem sameSettings_tryBegin {s t : State}  (h : sameSettings s t) :
    sameSettings s (tryBegin t) := by
  unfold tryBegin
  repeat' first
    | with_reducible exact h
    | with_reducible apply sameSettings_beginHead
    | split

theorem sameSettings_completeSync {s t : State}  (h : sameSettings s t) :
    sameSettings s (completeSync t) := by
  unfold completeSync
  repeat' first
    | with_reducible exact h
    | with_reducible apply sameSettings_completeQuiet
    | split

theorem sameSettings_commitQueued {s t : State} (d : Dom) (tag : Word) (h : sameSettings s t) :
    sameSettings s (commitQueued d tag t) := by
  unfold commitQueued
  repeat' first
    | with_reducible exact h
    | with_reducible apply sameSettings_setHold
    | with_reducible apply sameSettings_completeQuiet
    | with_reducible apply sameSettings_queueGroup
    | split

theorem sameSettings_grantCommit {s t : State}  (h : sameSettings s t) :
    sameSettings s (grantCommit t) := by
  unfold grantCommit
  repeat' first
    | with_reducible exact h
    | with_reducible apply sameSettings_commitQueued
    | split

theorem sameSettings_grantPending {s t : State} (d : Dom) (h : sameSettings s t) :
    sameSettings s (grantPending t d) := by
  unfold grantPending
  repeat' first
    | with_reducible exact h
    | with_reducible apply sameSettings_queueGroup
    | split

theorem sameSettings_grantSlots {s t : State}  (h : sameSettings s t) :
    sameSettings s (grantSlots t) := by
  unfold grantSlots
  simp only [Ix4.all, List.foldl]
  repeat' first
    | with_reducible exact h
    | with_reducible apply sameSettings_grantCommit
    | with_reducible apply sameSettings_grantPending

theorem sameSettings_reloadIfIdle {s t : State} (d : Dom) (h : sameSettings s t) :
    sameSettings s (reloadIfIdle d t) := by
  unfold reloadIfIdle
  repeat' first
    | with_reducible exact h
    | with_reducible apply sameSettings_loadAge
    | split

theorem sameSettings_takeCoalesce {s t : State} (d : Dom) (a : Addr) (l : Lanes) (w : Word) (h : sameSettings s t) :
    sameSettings s (takeCoalesce d a l w t) := by
  unfold takeCoalesce
  repeat' first
    | with_reducible exact h
    | with_reducible apply sameSettings_bump
    | with_reducible apply sameSettings_modDomain
    | with_reducible apply sameSettings_completeQuiet
    | with_reducible apply sameSettings_reloadIfIdle

theorem sameSettings_takeNew {s t : State} (d : Dom) (a : Addr) (l : Lanes) (w : Word) (h : sameSettings s t) :
    sameSettings s (takeNew d a l w t) := by
  unfold takeNew
  dsimp only
  repeat' first
    | with_reducible exact h
    | with_reducible apply sameSettings_bump
    | with_reducible apply sameSettings_modDomain
    | with_reducible apply sameSettings_completeQuiet
    | with_reducible apply sameSettings_loadAge
    | with_reducible apply sameSettings_flowAfterTake
    | with_reducible apply sameSettings_reloadIfIdle
    | split

theorem sameSettings_placeNow {s t : State} (d : Dom) (a : Addr) (l : Lanes) (w : Word) (h : sameSettings s t) :
    sameSettings s (placeNow d a l w t) := by
  unfold placeNow
  repeat' first
    | with_reducible exact h
    | with_reducible apply sameSettings_dropWrite
    | with_reducible apply sameSettings_breakDomain
    | with_reducible apply sameSettings_takeCoalesce
    | with_reducible apply sameSettings_takeNew
    | split

theorem sameSettings_examineWrite {s t : State} (x : Bool) (d : Dom) (a : Addr) (l : Lanes) (w : Word) (h : sameSettings s t) :
    sameSettings s (examineWrite x d a l w t) := by
  unfold examineWrite
  repeat' first
    | with_reducible exact h
    | with_reducible apply sameSettings_setFlag
    | with_reducible apply sameSettings_dropWrite
    | with_reducible apply sameSettings_breakDomain
    | with_reducible apply sameSettings_placeNow
    | split

theorem sameSettings_examineCommit {s t : State} (x : Bool) (d : Dom) (tag : Word) (h : sameSettings s t) :
    sameSettings s (examineCommit x d tag t) := by
  unfold examineCommit
  repeat' first
    | with_reducible exact h
    | with_reducible apply sameSettings_setFlag
    | with_reducible apply sameSettings_breakDomain
    | with_reducible apply sameSettings_commitToBroken
    | with_reducible apply sameSettings_tryBegin
    | with_reducible apply sameSettings_commitQueued
    | split

theorem sameSettings_examine {s t : State} (x : Bool) (h : sameSettings s t) :
    sameSettings s (examine x t) := by
  unfold examine
  repeat' first
    | with_reducible exact h
    | with_reducible apply sameSettings_examineWrite
    | with_reducible apply sameSettings_examineCommit
    | split

theorem sameSettings_beginAndExamine {s t : State}  (h : sameSettings s t) :
    sameSettings s (beginAndExamine t) := by
  unfold beginAndExamine
  repeat' first
    | with_reducible exact h
    | with_reducible apply sameSettings_beginHead
    | with_reducible apply sameSettings_examine
    | split

theorem sameSettings_holdForRead {s t : State} (k : Hold) (a : Addr) (h : sameSettings s t) :
    sameSettings s (holdForRead k a t) := by
  unfold holdForRead
  repeat' first
    | with_reducible exact h
    | with_reducible apply sameSettings_postRequest
    | with_reducible apply sameSettings_setHold

theorem sameSettings_stagedRead {s t : State} (d : Dom) (a : Addr) (h : sameSettings s t) :
    sameSettings s (stagedRead d a t) := by
  unfold stagedRead
  repeat' first
    | with_reducible exact h
    | with_reducible apply sameSettings_bump
    | with_reducible apply sameSettings_completeRead
    | with_reducible apply sameSettings_holdForRead
    | split

theorem sameSettings_classifiedRead {s t : State} (c : Class) (a : Addr) (h : sameSettings s t) :
    sameSettings s (classifiedRead c a t) := by
  unfold classifiedRead
  repeat' first
    | with_reducible exact h
    | with_reducible apply sameSettings_completeRead
    | with_reducible apply sameSettings_holdForRead
    | with_reducible apply sameSettings_stagedRead
    | split

theorem sameSettings_dropParity {s t : State}  (h : sameSettings s t) :
    sameSettings s (dropParity t) := by
  unfold dropParity
  repeat' first
    | with_reducible exact h
    | with_reducible apply sameSettings_setFlag
    | with_reducible apply sameSettings_dropWrite

theorem sameSettings_stagedWrite {s t : State} (d : Dom) (a : Addr) (l : Lanes) (w : Word) (b : Bool) (h : sameSettings s t) :
    sameSettings s (stagedWrite d a l w b t) := by
  unfold stagedWrite
  repeat' first
    | with_reducible exact h
    | with_reducible apply sameSettings_setHold
    | with_reducible apply sameSettings_dropWrite
    | with_reducible apply sameSettings_breakDomain
    | with_reducible apply sameSettings_placeNow
    | with_reducible apply sameSettings_examine
    | with_reducible apply sameSettings_dropParity
    | split

theorem sameSettings_abortGroup {s t : State} (d : Dom) (h : sameSettings s t) :
    sameSettings s (abortGroup d t) := by
  unfold abortGroup
  repeat' first
    | with_reducible exact h
    | with_reducible apply sameSettings_modDomain
    | with_reducible apply sameSettings_completeQuiet
    | with_reducible apply sameSettings_flowAfterRelease

theorem sameSettings_holdCommit {s t : State} (d : Dom) (tag : Word) (h : sameSettings s t) :
    sameSettings s (holdCommit d tag t) := by
  unfold holdCommit
  repeat' first
    | with_reducible exact h
    | with_reducible apply sameSettings_modDomain
    | with_reducible apply sameSettings_setHold
    | with_reducible apply sameSettings_examine

theorem sameSettings_commitGroup {s t : State} (d : Dom) (tag : Word) (h : sameSettings s t) :
    sameSettings s (commitGroup d tag t) := by
  unfold commitGroup
  repeat' first
    | with_reducible exact h
    | with_reducible apply sameSettings_commitToBroken
    | with_reducible apply sameSettings_tryBegin
    | with_reducible apply sameSettings_commitQueued
    | with_reducible apply sameSettings_holdCommit
    | split

theorem sameSettings_commitCellWrite {s t : State} (d : Dom) (l : Lanes) (w : Word) (b : Bool) (h : sameSettings s t) :
    sameSettings s (commitCellWrite d l w b t) := by
  unfold commitCellWrite
  repeat' first
    | with_reducible exact h
    | with_reducible apply sameSettings_dropWrite
    | with_reducible apply sameSettings_breakDomain
    | with_reducible apply sameSettings_dropParity
    | with_reducible apply sameSettings_abortGroup
    | with_reducible apply sameSettings_commitGroup
    | split

theorem sameSettings_passWrite {s t : State} (a : Addr) (l : Lanes) (w : Word) (b : Bool) (h : sameSettings s t) :
    sameSettings s (passWrite a l w b t) := by
  unfold passWrite
  repeat' first
    | with_reducible exact h
    | with_reducible apply sameSettings_postRequest
    | with_reducible apply sameSettings_setHold
    | with_reducible apply sameSettings_dropParity
    | split

theorem sameSettings_classifiedWrite {s t : State} (c : Class) (a : Addr) (l : Lanes) (w : Word) (p : Option (BitVec 2)) (h : sameSettings s t) :
    sameSettings s (classifiedWrite c a l w p t) := by
  unfold classifiedWrite
  repeat' first
    | with_reducible exact h
    | with_reducible apply sameSettings_dropWrite
    | with_reducible apply sameSettings_stagedWrite
    | with_reducible apply sameSettings_commitCellWrite
    | with_reducible apply sameSettings_passWrite
    | split

theorem sameSettings_presentAccess {s t : State} (a : Access) (h : sameSettings s t) :
    sameSettings s (presentAccess a t) := by
  unfold presentAccess
  repeat' first
    | with_reducible exact h
    | with_reducible apply sameSettings_completeQuiet
    | with_reducible apply sameSettings_classifiedRead
    | with_reducible apply sameSettings_classifiedWrite
    | split

theorem sameSettings_arrive {s t : State} (a : Access) (h : sameSettings s t) :
    sameSettings s (arrive a t) := by
  unfold arrive
  repeat' first
    | with_reducible exact h
    | with_reducible apply sameSettings_setHost
    | with_reducible apply sameSettings_presentAccess
    | split

theorem sameSettings_releaseHeld {s t : State}  (h : sameSettings s t) :
    sameSettings s (releaseHeld t) := by
  unfold releaseHeld
  repeat' first
    | with_reducible exact h
    | with_reducible apply sameSettings_setHost
    | with_reducible apply sameSettings_presentAccess
    | split

theorem sameSettings_hostReadDone {s t : State} (w : Word) (h : sameSettings s t) :
    sameSettings s (hostReadDone w t) := by
  unfold hostReadDone
  repeat' first
    | with_reducible exact h
    | with_reducible apply sameSettings_bump
    | with_reducible apply sameSettings_completeRead
    | split

theorem sameSettings_hostAccessDone {s t : State} (w : Word) (h : sameSettings s t) :
    sameSettings s (hostAccessDone w t) := by
  unfold hostAccessDone
  repeat' first
    | with_reducible exact h
    | with_reducible apply sameSettings_completeQuiet
    | with_reducible apply sameSettings_hostReadDone
    | split

theorem sameSettings_goOn {s t : State} (e : EngineState) (h : sameSettings s t) :
    sameSettings s (goOn e t) := by
  unfold goOn
  repeat' first
    | with_reducible exact h
    | with_reducible apply sameSettings_setEngine
    | with_reducible apply sameSettings_requestEngine

theorem sameSettings_enter {s t : State} (e : EngineState) (h : sameSettings s t) :
    sameSettings s (enter e t) := by
  unfold enter
  repeat' first
    | with_reducible exact h
    | with_reducible apply sameSettings_examine
    | with_reducible apply sameSettings_goOn

theorem sameSettings_retire {s t : State}  (h : sameSettings s t) :
    sameSettings s (retire t) := by
  unfold retire
  dsimp only
  repeat' first
    | with_reducible exact h
    | with_reducible apply sameSettings_setFlag
    | with_reducible apply sameSettings_bump
    | with_reducible apply sameSettings_modDomain
    | with_reducible apply sameSettings_setEngine
    | with_reducible apply sameSettings_flowAfterRelease
    | with_reducible apply sameSettings_tryBegin
    | with_reducible apply sameSettings_completeSync
    | with_reducible apply sameSettings_grantSlots
    | with_reducible apply sameSettings_examine
    | split
    | exact h

theorem sameSettings_copyingDone {s t : State} (i w : Nat) (h : sameSettings s t) :
    sameSettings s (copyingDone i w t) := by
  unfold copyingDone
  repeat' first
    | with_reducible exact h
    | with_reducible apply sameSettings_goOn
    | with_reducible apply sameSettings_enter
    | split

theorem sameSettings_markingDone {s t : State} (k : Nat) (h : sameSettings s t) :
    sameSettings s (markingDone k t) := by
  unfold markingDone
  repeat' first
    | with_reducible exact h
    | with_reducible apply sameSettings_goOn
    | with_reducible apply sameSettings_enter
    | split

theorem sameSettings_homingDone {s t : State} (i : Nat) (h : sameSettings s t) :
    sameSettings s (homingDone i t) := by
  unfold homingDone
  repeat' first
    | with_reducible exact h
    | with_reducible apply sameSettings_goOn
    | with_reducible apply sameSettings_enter
    | with_reducible apply sameSettings_retire
    | split

theorem sameSettings_endRecovery {s t : State} (e : EngineState) (h : sameSettings s t) :
    sameSettings s (endRecovery e t) := by
  unfold endRecovery
  repeat' first
    | with_reducible exact h
    | with_reducible apply sameSettings_setEngine
    | with_reducible apply sameSettings_releaseHeld

theorem sameSettings_failRecovery {s t : State} (c : BlockCause) (h : sameSettings s t) :
    sameSettings s (failRecovery c t) := by
  unfold failRecovery
  repeat' first
    | with_reducible exact h
    | with_reducible apply sameSettings_setFlag
    | with_reducible apply sameSettings_endRecovery

theorem sameSettings_replayOn {s t : State} (hd : List Word) (r : List JournalRecord) (h : sameSettings s t) :
    sameSettings s (replayOn hd r t) := by
  unfold replayOn
  repeat' first
    | with_reducible exact h
    | with_reducible apply sameSettings_goOn
    | split

theorem sameSettings_headerRead {s t : State} (hd : List Word) (h : sameSettings s t) :
    sameSettings s (headerRead hd t) := by
  unfold headerRead
  repeat' first
    | with_reducible exact h
    | with_reducible apply sameSettings_goOn
    | with_reducible apply sameSettings_failRecovery
    | split

theorem sameSettings_recordRead {s t : State} (hd ws : List Word) (h : sameSettings s t) :
    sameSettings s (recordRead hd ws t) := by
  unfold recordRead
  repeat' first
    | with_reducible exact h
    | with_reducible apply sameSettings_goOn
    | with_reducible apply sameSettings_failRecovery
    | with_reducible apply sameSettings_replayOn
    | split

theorem sameSettings_replayDone {s t : State} (hd : List Word) (h : sameSettings s t) :
    sameSettings s (replayDone hd t) := by
  unfold replayDone
  repeat' first
    | with_reducible exact h
    | with_reducible apply sameSettings_setFlag
    | with_reducible apply sameSettings_endRecovery
    | exact h

theorem sameSettings_recoveryDone {s t : State} (r : Recovery) (w : Word) (h : sameSettings s t) :
    sameSettings s (recoveryDone r w t) := by
  unfold recoveryDone
  repeat' first
    | with_reducible exact h
    | with_reducible apply sameSettings_endRecovery
    | with_reducible apply sameSettings_replayOn
    | with_reducible apply sameSettings_headerRead
    | with_reducible apply sameSettings_recordRead
    | with_reducible apply sameSettings_replayDone
    | split

theorem sameSettings_startRecovery {s t : State}  (h : sameSettings s t) :
    sameSettings s (startRecovery t) := by
  unfold startRecovery
  repeat' first
    | with_reducible exact h
    | with_reducible apply sameSettings_goOn
    | exact h

theorem sameSettings_engineAccessDone {s t : State} (w : Word) (h : sameSettings s t) :
    sameSettings s (engineAccessDone w t) := by
  unfold engineAccessDone
  repeat' first
    | with_reducible exact h
    | with_reducible apply sameSettings_setEngine
    | with_reducible apply sameSettings_retire
    | with_reducible apply sameSettings_copyingDone
    | with_reducible apply sameSettings_markingDone
    | with_reducible apply sameSettings_homingDone
    | with_reducible apply sameSettings_recoveryDone
    | split

theorem sameSettings_fault {s t : State} (p : Phase) (i : Nat) (h : sameSettings s t) :
    sameSettings s (fault p i t) := by
  unfold fault
  repeat' first
    | with_reducible exact h
    | with_reducible apply sameSettings_setFlag
    | with_reducible apply sameSettings_setEngine
    | with_reducible apply sameSettings_examine

theorem sameSettings_hostTimedOut {s t : State}  (h : sameSettings s t) :
    sameSettings s (hostTimedOut t) := by
  unfold hostTimedOut
  dsimp only
  repeat' first
    | with_reducible exact h
    | with_reducible apply sameSettings_setFlag
    | with_reducible apply sameSettings_completeQuiet
    | with_reducible apply sameSettings_completeRead
    | split
    | exact h

theorem sameSettings_engineTimedOut {s t : State}  (h : sameSettings s t) :
    sameSettings s (engineTimedOut t) := by
  unfold engineTimedOut
  dsimp only
  repeat' first
    | with_reducible exact h
    | with_reducible apply sameSettings_setFlag
    | with_reducible apply sameSettings_setEngine
    | with_reducible apply sameSettings_failRecovery
    | with_reducible apply sameSettings_fault
    | split
    | exact h

theorem sameSettings_holdExpiry {s t : State}  (h : sameSettings s t) :
    sameSettings s (holdExpiry t) := by
  unfold holdExpiry
  repeat' first
    | with_reducible exact h
    | with_reducible apply sameSettings_setFlag
    | with_reducible apply sameSettings_clearSyncFlags
    | with_reducible apply sameSettings_completeQuiet
    | with_reducible apply sameSettings_examine
    | split

theorem sameSettings_ageExpiry {s t : State} (d : Dom) (h : sameSettings s t) :
    sameSettings s (ageExpiry d t) := by
  unfold ageExpiry
  dsimp only
  repeat' first
    | with_reducible exact h
    | with_reducible apply sameSettings_setFlag
    | with_reducible apply sameSettings_modDomain
    | with_reducible apply sameSettings_breakDomain
    | with_reducible apply sameSettings_queueGroup
    | with_reducible apply sameSettings_examine
    | with_reducible apply sameSettings_beginAndExamine
    | split

theorem sameSettings_endHeldByPower {s t : State}  (h : sameSettings s t) :
    sameSettings s (endHeldByPower t) := by
  unfold endHeldByPower
  repeat' first
    | with_reducible exact h
    | with_reducible apply sameSettings_clearSyncFlags
    | with_reducible apply sameSettings_completeQuiet
    | with_reducible apply sameSettings_dropWrite
    | split

theorem sameSettings_abandonHead {s t : State}  (h : sameSettings s t) :
    sameSettings s (abandonHead t) := by
  unfold abandonHead
  dsimp only
  repeat' first
    | with_reducible exact h
    | with_reducible apply sameSettings_setEngine
    | with_reducible apply sameSettings_flowAfterRelease
    | with_reducible apply sameSettings_tryBegin
    | with_reducible apply sameSettings_completeSync
    | with_reducible apply sameSettings_grantSlots
    | with_reducible apply sameSettings_examine
    | split
    | exact h

theorem sameSettings_consumeHeldCommit {s t : State} (h : sameSettings s t) : sameSettings s (consumeHeldCommit t) := by
  unfold consumeHeldCommit
  split
  · exact sameSettings_commitToBroken _ h
  · exact h

theorem sameSettings_stageClear {s t : State} (h : sameSettings s t) : sameSettings s (stageClear t) := by
  have hq : sameSettings s { consumeHeldCommit (breakAll .clear t) with queue := keptRecords t } :=
    sameSettings_consumeHeldCommit (sameSettings_breakAll _ h)
  unfold stageClear
  dsimp only
  apply sameSettings_examine
  apply sameSettings_flowAfterRelease
  split
  · exact sameSettings_completeSync hq
  · exact hq

/-- A management write accepted or refused leaves the blocks of its effect: the records of the frame alone are added. -/
theorem sameBlocks_endWriteFrame (out : Mso) (r : Status × State) : sameBlocks r.2 (endWriteFrame out r) :=
  ⟨rfl, rfl, rfl, rfl, rfl, rfl, rfl, rfl, rfl, rfl, rfl, rfl, rfl, rfl⟩

/-! ### The return to IDLE under levels asserted again -/

/-- A step that leaves the Host Port as it was brings no arrival at a return to IDLE. -/
theorem settle_of_same_port {before s : State} (h : s.host.port = before.host.port) : settle before s = s := by
  unfold settle
  split
  · rename_i hb hs _; rw [hb, hs] at h; cases h
  · rfl

/-- With no levels asserted again a return to IDLE is no arrival. -/
theorem settle_of_noneAgain (before : State) {s : State} (h : noneAgain s) : settle before s = s := by
  unfold settle
  split
  · rename_i hb; rw [h] at hb; cases hb
  · rfl

theorem sameSettings_settle {s t : State} (before : State) (h : sameSettings s t) :
    sameSettings s (settle before t) := by
  unfold settle
  dsimp only
  repeat' first
    | with_reducible exact h
    | with_reducible apply sameSettings_arrive
    | split
    | exact h

/-! ### Management frames -/

@[simp] theorem afterInside_nil (s : State) : afterInside [] s = s := rfl

@[simp] theorem afterInside_cons (e : Event) (inside : List Event) (s : State) :
    afterInside (e :: inside) s = afterInside inside (takeEvent s e) := rfl

/-- A frame under an MSS# held since a reset is no frame: its events alone happen. -/
theorem frameReturning_unrecognised {word : State → Word} {effect : State → Status × State} {inside : List Event}
    {s : State} (h : ¬framesSeen s) :
    frameReturning word effect inside s = unrecognisedFrame (afterInside inside s) := by
  have h : s.mgmt.mssHeld = true := Bool.eq_true_of_not_eq_false h
  simp only [frameReturning, h, if_true, releaseMss, unrecognisedFrame]

/-- A recognised frame acts after its events, and returns the word of the end of byte 0. -/
theorem frameReturning_recognised {word : State → Word} {effect : State → Status × State} {inside : List Event}
    {s : State} (h : framesSeen s) :
    frameReturning word effect inside s
      = settle (afterInside inside s) (endWriteFrame (carried s (word s)) (effect (afterInside inside s))) := by
  have h : s.mgmt.mssHeld = false := h
  simp only [frameReturning, h, Bool.false_eq_true, if_false, actWrite]

/-- A recognised frame around an effect that refuses is the refused frame. -/
theorem frameWith_refused {r : Reg} {effect : State → Status × State} {s : State} {st : Status} (hs : framesSeen s)
    (h : effect s = (st, s)) : frameWith r effect [] s = refusedFrame st (snapshot s r) s := by
  rw [frameWith, frameReturning_recognised hs, afterInside_nil, h]
  exact settle_of_same_port rfl

/-- A recognised frame around an effect that accepts is the accepted frame, where the effect leaves the Host Port as it
was. -/
theorem frameWith_accepted {r : Reg} {effect : State → Status × State} {s t : State} (hs : framesSeen s)
    (h : effect s = (.ok, t)) (hp : t.host.port = s.host.port) :
    frameWith r effect [] s = acceptedFrame (snapshot s r) s t := by
  rw [frameWith, frameReturning_recognised hs, afterInside_nil, h]
  exact settle_of_same_port hp

/-- The same where no levels stand asserted again. -/
theorem frameWith_accepted_of_noneAgain {r : Reg} {effect : State → Status × State} {s t : State} (hs : framesSeen s)
    (h : effect s = (.ok, t)) (ht : noneAgain t) : frameWith r effect [] s = acceptedFrame (snapshot s r) s t := by
  rw [frameWith, frameReturning_recognised hs, afterInside_nil, h]
  exact settle_of_noneAgain s ht

/-- With no access held for space or a slot, an examination changes nothing. -/
theorem examine_of_noneWaiting (expired : Bool) {s : State} (h : noneWaiting s) : examine expired s = s := by
  unfold examine
  split
  · rename_i p hp
    obtain ⟨h1, h2⟩ := h p hp
    split
    · rename_i d _ _ _ _ hd _; exact absurd hd (h1 d)
    · rename_i d tag hd; exact absurd hd (h2 d tag)
    · rfl
  · rfl

/-- Quiescence as the management writes test it. -/
theorem quiescent_eq_true_iff (s : State) : quiescent s = true ↔ usedEntries s = 0 ∧ s.queue = [] := by
  simp [quiescent]

end Sys2Proof.Machine
end

