-- ==== Sys2Proof/Laws/Serial.lean ====
section
/-! SUPPORT. The management wires: a run of clocks in a frame, the two clocks that do more than shift, and the edges under an
MSS# held since a reset. A proof about a frame on the wires cites these lemmas instead of unfolding the edges. -/

namespace Sys2Proof.Machine

/-- The frame `f` after its first `n` clocks, MSI being the bits of `frame`. -/
def Shift.clocked (frame : BitVec 24) (n : Nat) (f : Shift) : Shift :=
  { f with msi := frame >>> (24 - n), rises := n, falls := n }

/-- Sampling the next bit of a word, most significant first, shifts one place less of it out. -/
theorem shiftConcat_ushiftRight (frame : BitVec 24) {n : Nat} (h : n < 24) :
    (frame >>> (24 - n)).shiftConcat (frame.getMsbD n) = frame >>> (24 - (n + 1)) := by
  apply BitVec.eq_of_getLsbD_eq
  intro i hi
  rw [BitVec.getLsbD_shiftConcat, BitVec.getLsbD_ushiftRight, BitVec.getLsbD_ushiftRight, BitVec.getMsbD_eq_getLsbD]
  by_cases h0 : i = 0
  · subst h0
    rw [if_pos rfl, decide_eq_true h, decide_eq_true hi, show 24 - 1 - n = 24 - (n + 1) + 0 by omega]; rfl
  · simp [h0, hi, show 24 - n + (i - 1) = 24 - (n + 1) + i by omega]

theorem ushiftRight_of_all_clocks (frame : BitVec 24) : frame >>> (24 - 24) = frame := by simp

/-- A clock that ends neither byte 0 nor byte 2 only shifts. -/
theorem clock_shifts (frame : BitVec 24) (s : State) (f : Shift) {n : Nat} (hn : n < 24) (h8 : n + 1 ≠ 8)
    (h24 : n + 1 ≠ 24) :
    ((Line.rise (frame.getMsbD n) ⟨s, .selected (f.clocked frame n)⟩).fall) = ⟨s, .selected (f.clocked frame (n + 1))⟩ := by
  simp [Line.rise, Line.fall, Shift.clocked, Nat.not_le.mpr hn, h8, h24, shiftConcat_ushiftRight frame hn]

/-- The eighth clock takes the snapshot, of the state as it stands. -/
theorem clock_eighth (frame : BitVec 24) (s : State) (f : Shift) :
    ((Line.rise (frame.getMsbD 7) ⟨s, .selected (f.clocked frame 7)⟩).fall)
      = ⟨s, .selected ((f.clocked frame 8).takeSnapshot s)⟩ := by
  have h := shiftConcat_ushiftRight frame (n := 7) (by decide)
  simp only [Line.rise, Line.fall, Shift.clocked, Shift.takeSnapshot, h]
  rfl

/-- The last clock of byte 2 acts on the frame. -/
theorem clock_last (frame : BitVec 24) (s : State) (f : Shift) :
    ((Line.rise (frame.getMsbD 23) ⟨s, .selected (f.clocked frame 23)⟩).fall)
      = ⟨(f.clocked frame 24).act s, .selected (f.clocked frame 24)⟩ := by
  have h := shiftConcat_ushiftRight frame (n := 23) (by decide)
  simp only [Line.rise, Line.fall, Shift.clocked, Shift.act, Shift.out, h]
  rfl

/-- A clock after byte 2 moves MSO on, and nothing else. -/
theorem clock_after (b : Bool) (s : State) (f : Shift) (h : 24 ≤ f.rises) :
    ((Line.rise b ⟨s, .selected f⟩).fall) = ⟨s, .selected { f with falls := f.falls + 1 }⟩ := by
  simp [Line.rise, Line.fall, h]

theorem clocks_zero (frame : BitVec 24) (start : Nat) (l : Line) : Line.clocks frame start 0 l = l := rfl

theorem clocks_succ (frame : BitVec 24) (start n : Nat) (l : Line) :
    Line.clocks frame start (n + 1) l
      = ((Line.clocks frame start n l).rise (frame.getMsbD (start + n))).fall := by
  simp [Line.clocks, List.range'_concat]

/-- Clocks that reach neither the end of byte 0 nor that of byte 2 only shift. -/
theorem clocks_shift (frame : BitVec 24) (s : State) (f : Shift) (start n : Nat)
    (h : start + n < 8 ∨ (8 ≤ start ∧ start + n < 24)) :
    Line.clocks frame start n ⟨s, .selected (f.clocked frame start)⟩ = ⟨s, .selected (f.clocked frame (start + n))⟩ := by
  induction n with
  | zero => rfl
  | succ n ih => rw [clocks_succ, ih (by omega), clock_shifts frame s f (by omega) (by omega) (by omega)]; rfl

/-- Clocks after byte 2 move MSO on, and nothing else. -/
theorem clocks_after (frame : BitVec 24) (s : State) (f : Shift) (start n : Nat) (h : 24 ≤ f.rises) :
    Line.clocks frame start n ⟨s, .selected f⟩ = ⟨s, .selected { f with falls := f.falls + n }⟩ := by
  induction n with
  | zero => rfl
  | succ n ih => rw [clocks_succ, ih, clock_after _ s { f with falls := f.falls + n } h]; rfl

/-- Clocks with no frame begun have no effect. -/
theorem clocks_of_not_selected (frame : BitVec 24) (start n : Nat) {l : Line} (h : ∀ f, l.select ≠ .selected f) :
    Line.clocks frame start n l = l := by
  induction n with
  | zero => rfl
  | succ n ih =>
    rw [clocks_succ, ih]
    unfold Line.rise Line.fall
    split
    · rename_i f hf; exact absurd hf (by split <;> first | exact h _ | simp_all)
    · split
      · rename_i f hf; exact absurd hf (h f)
      · rfl

/-- Events leave the wires, and come to the state in their order. -/
theorem foldl_event (inside : List Event) (s : State) (w : Select) :
    inside.foldl Line.event ⟨s, w⟩ = ⟨afterInside inside s, w⟩ := by
  induction inside generalizing s with
  | nil => rfl
  | cons e es ih => exact ih (takeEvent s e)

/-- The frame that begins in a state. -/
def Shift.begun (s : State) : Shift := ⟨s.mgmt.lastStatus.code, 0#16, none, 0#24, 0, 0⟩

theorem assertMss_of_framesSeen (frame : BitVec 24) {s : State} (h : framesSeen s) :
    (Line.ofState s).assertMss = ⟨s, .selected ((Shift.begun s).clocked frame 0)⟩ := by
  have h : s.mgmt.mssHeld = false := h
  have h0 : frame >>> (24 - 0) = 0#24 := by
    apply BitVec.eq_of_getLsbD_eq; intro i hi; simp
  simp only [Line.ofState, Line.assertMss, h, Shift.clocked, Shift.begun, h0, Bool.false_eq_true, if_false]

theorem assertMss_of_held {s : State} (h : ¬framesSeen s) : (Line.ofState s).assertMss = ⟨s, .held⟩ := by
  have h : s.mgmt.mssHeld = true := Bool.eq_true_of_not_eq_false h
  simp [Line.ofState, Line.assertMss, h]

/-- Runs of clocks follow one another. -/
theorem clocks_append (frame : BitVec 24) (start n k : Nat) (l : Line) :
    Line.clocks frame start (n + k) l = Line.clocks frame (start + n) k (Line.clocks frame start n l) := by
  unfold Line.clocks
  rw [← List.range'_append_1, List.foldl_append]

/-- The frame of a state after its byte 0: the snapshot of the register that MSI named, and of a read its remainder. -/
def Shift.snapped (frame : BitVec 24) (s : State) : Shift :=
  { Shift.begun s with
    data := indexWord (frame.extractLsb' 16 7) s
    view := if frame.getLsbD 23 then indexView (frame.extractLsb' 16 7) s else none }

theorem takeSnapshot_begun (frame : BitVec 24) (s : State) :
    ((Shift.begun s).clocked frame 8).takeSnapshot s = (Shift.snapped frame s).clocked frame 8 := by
  have h7 : (frame >>> (24 - 8)).setWidth 7 = frame.extractLsb' 16 7 := by
    apply BitVec.eq_of_getLsbD_eq; intro i hi; simp [hi]
  have hd : (frame >>> (24 - 8)).getLsbD 7 = frame.getLsbD 23 := by
    rw [BitVec.getLsbD_ushiftRight]
  simp only [Shift.takeSnapshot, Shift.clocked, Shift.snapped, h7, hd]

/-- The first eight clocks of a frame. -/
theorem clocks_byte0 (frame : BitVec 24) {s : State} (h : framesSeen s) :
    Line.clocks frame 0 8 (Line.ofState s).assertMss = ⟨s, .selected ((Shift.snapped frame s).clocked frame 8)⟩ := by
  rw [assertMss_of_framesSeen frame h, clocks_succ, clocks_shift _ _ _ _ _ (by omega), ← takeSnapshot_begun]
  exact clock_eighth frame s _

/-- The sixteen clocks of bytes 1 and 2, the last of which acts. -/
theorem clocks_bytes12 (frame : BitVec 24) (t : State) (f : Shift) :
    Line.clocks frame 8 16 ⟨t, .selected (f.clocked frame 8)⟩
      = ⟨(f.clocked frame 24).act t, .selected (f.clocked frame 24)⟩ := by
  rw [clocks_succ, clocks_shift _ _ _ _ _ (by omega)]
  exact clock_last frame t f

/-! ### The level of MSO -/

theorem level_status (out : Mso) {n : Nat} (h : n < 8) : out.level n = out.status.getMsbD n := by
  unfold Mso.level
  rw [BitVec.getMsbD_append]
  simp [h]

theorem level_data (out : Mso) (n : Nat) : out.level (8 + n) = out.data.getMsbD n := by
  unfold Mso.level
  rw [BitVec.getMsbD_append]
  simp

theorem level_after (out : Mso) {n : Nat} (h : 24 ≤ n) : out.level n = false := BitVec.getMsbD_of_ge _ _ h

@[simp] theorem mso_ofState (s : State) : (Line.ofState s).mso = none := by
  unfold Line.ofState Line.mso
  cases s.mgmt.mssHeld <;> rfl

@[simp] theorem select_deassertMss (l : Line) : l.deassertMss.select = .waiting := by
  obtain ⟨s, w⟩ := l
  cases w <;> rfl

end Sys2Proof.Machine
end

