-- ==== Sys2Proof/Tests/Slice0.lean ====
section
/-! SUPPORT. Tests: ill-formed commands that the check refuses, worked values of the manual, and for each statement that
has hypotheses a concrete state and operands that meet them together. -/

namespace Sys2Proof.Tests

open Sys2Proof Sys2Proof.Machine

/-! ### Well-formed commands -/

theorem test_arrival_without_a_strobe_is_refused :
    Instr.wellFormed (.hostAccessArrival ⟨false, false, 0#20, Lanes.both, 0#16, 0#2⟩) = false := by decide

theorem test_arrival_with_a_strobe_is_well_formed :
    Instr.wellFormed (.hostAccessArrival ⟨true, false, 0#20, Lanes.both, 0#16, 0#2⟩) = true := by decide

theorem test_tick_with_one_expiry_twice_is_refused :
    Instr.wellFormed (.tick false [.age .i1, .hold, .age .i1]) = false := by decide

theorem test_register_write_of_a_writable_register_is_refused :
    Instr.wellFormed (.registerWrite 0x02#7 0#16 []) = false := by decide

theorem test_register_write_of_read_only_and_unused_is_well_formed :
    Instr.wellFormed (.registerWrite 0x05#7 0#16 []) = true
      ∧ Instr.wellFormed (.registerWrite 0x5F#7 0#16 []) = true := by
  decide

theorem test_named_code_as_unnamed_is_refused : Instr.wellFormed (.unnamedEcmdCode 7#16 []) = false := by decide

theorem test_ill_formed_event_inside_a_frame_is_refused :
    Instr.wellFormed (.holdOn [.tick true [.hold, .hold]]) = false
      ∧ Instr.wellFormed (.viewRead 0#7 [.hostArrival ⟨false, false, 0#20, Lanes.both, 0#16, 0#2⟩]) = false
      ∧ Instr.wellFormed (.holdOn [.tick true [.hold, .array none], .hostReturnIdle]) = true := by decide

/-! ### Worked values of the manual -/

/-- Chapter 4, "Parity". -/
theorem test_odd_parity :
    Byte.oddParity 0x00#8 = true ∧ Byte.oddParity 0x01#8 = false ∧ Byte.oddParity 0xFF#8 = true := by decide

/-- Chapter 1, the journal base for corners of the table of straps. -/
theorem test_journal_base :
    journalBase ⟨0#2, 0#2, false⟩ = 0x20000 ∧ journalBase ⟨0#2, 1#2, false⟩ = 0x1FE78
      ∧ journalBase ⟨1#2, 2#2, false⟩ = 0x3FCF8 ∧ journalBase ⟨2#2, 3#2, false⟩ = 0x7F9F8
      ∧ journalBase ⟨3#2, 0#2, false⟩ = 0x100000 ∧ journalBase ⟨3#2, 3#2, false⟩ = 0xFF9F8 := by decide

/-- Chapter 1, worked example: the hash of page 0x123 and of page 0x7FC. -/
theorem test_page_hash : pageHash 0x123#12 = 39#6 ∧ pageHash 0x027#12 = 39#6 ∧ pageHash 0x7FC#12 = 35#6 := by decide

/-- A window of the tests. -/
def win (k : WindowKind) (d : Dom) (base limit : BitVec 12) : Window := ⟨true, base, limit, k, d⟩

/-- The board of chapter 1's worked example, HPAR high, at rest: engine IDLE, Host Port IDLE. -/
def board : State :=
  let s := State.cold ⟨2#2, 2#2, true⟩ false [] []
  { s with
    cl := { s.cl with
      windows := #v[win .deny .i0 0x040#12 0x041#12, win .stage .i0 0x040#12 0x04F#12,
        win .stage .i1 0x060#12 0x06F#12, win .stage .i2 0x070#12 0x07F#12, win .pass .i0 0x080#12 0x080#12,
        Window.cold, Window.cold, Window.cold, Window.cold, Window.cold, Window.cold, Window.cold, Window.cold,
        Window.cold, Window.cold, Window.cold]
      hset := ⟨0#16, 0#16, 0x0080#16, 0#16⟩, hashKind := .stage, hashDomain := .i1, defact := .deny }
    domains := { s.domains with
      at0 := { Domain.cold with state := .empty, cell := 0x04FFF#20 }
      at1 := { Domain.cold with state := .empty, cell := 0x06000#20 } }
    engine := { s.engine with state := .idle }
    host := { s.host with port := .idle } }

theorem test_worked_classification :
    classify board 0x04FFF#20 = .commitCell .i0 ∧ classify board 0x06000#20 = .commitCell .i1
      ∧ classify board 0x04123#20 = .deny ∧ classify board 0x04A00#20 = .stage .i0
      ∧ classify board 0x06001#20 = .stage .i1 ∧ classify board 0x07010#20 = .stage .i2 := by decide

theorem test_worked_classification_hash_default_and_areas :
    classify board 0x12345#20 = .stage .i1 ∧ classify board 0x02710#20 = .stage .i1
      ∧ classify board 0x00010#20 = .deny ∧ classify board 0x7FCF7#20 = .deny
      ∧ classify board 0x7FCF8#20 = .reserved ∧ classify board 0x90000#20 = .outside := by decide

/-- R37, the table of auto tags. -/
theorem test_auto_tags :
    let tag := fun (last abortval : Word) =>
      autoTag { modDomain .i0 (fun x => { x with lastTag := last }) board with abortval := abortval } .i0
    tag 0x0007#16 0xFFFF#16 = 0x0008#16 ∧ tag 0xFFFE#16 0xFFFF#16 = 0x0000#16
      ∧ tag 0x0041#16 0x0042#16 = 0x0043#16 ∧ tag 0xFFFF#16 0x0000#16 = 0x0001#16 := by decide

/-- The group of chapter 6's apply example. -/
def example6 : GroupRecord :=
  ⟨0#16, .i0, 0x0101#16, 0x04FFF#20, true,
    [⟨0x04A00#20, Lanes.both, 0x3311#16⟩, ⟨0x04A01#20, ⟨true, false⟩, 0x0022#16⟩, ⟨0x04B00#20, Lanes.both, 0x4444#16⟩]⟩

/-- Chapter 12, the record words of the apply example. -/
theorem test_record_words :
    example6.words = [0x4A00#16, 0x0030#16, 0x3311#16, 0x4A01#16, 0x0010#16, 0x0022#16,
      0x4B00#16, 0x0030#16, 0x4444#16, 0x4FFF#16, 0x8030#16, 0x0101#16] := by decide

/-- Chapter 12, header words 0 to 5 of the apply example. -/
theorem test_header_words :
    example6.header.take 6 = [0xC3A5#16, 0x0000#16, 0x0000#16, 0x0004#16, 0x0101#16, 0x0000#16] := by decide

/-- The check function of no word and of one word of zeros. -/
theorem test_crc_of_a_zero_word : crc [] = 0xFFFF#16 ∧ crc [0x0000#16] = 0x1D0F#16 := by decide +kernel

/-- R187: 0x0100 to STALLLVL, 0x0010 to STARVE refused; 512 to CEIL refused with the journal on. -/
theorem test_ranges :
    (stalllvlWrite 0x0100#16 board).1 = .range ∧ (starveWrite 0x0010#16 board).1 = .range
      ∧ (ceilWrite .i0 0x0200#16 board).1 = .range ∧ (ceilWrite .i0 0x0200#16 State.reset).1 = .ok := by decide

/-- A management frame's bytes: a read of ESTAT, a write of 0x0003 to ECMD. -/
theorem test_frames :
    commandOfFrame 0x88#8 0#8 0#8 [] = .viewRead 0x08#7 []
      ∧ commandOfFrame 0x07#8 0x00#8 0x03#8 [.holdExpiry] = .registerWrite 0x07#7 3#16 [.holdExpiry] := by decide

theorem test_reset_estat : snapshot State.reset .estat = 0x0002#16 := by decide

theorem test_decode_table_word_is_none : decodeTableWord 0 0 = none := rfl

/-! ### States for the witnesses -/

/-- A word with its good parity bits, written in both lanes. -/
def wr (a : Addr) (w : Word) : HostBus :=
  ⟨true, false, a, Lanes.both, w, BitVec.ofBool w.lane1.oddParity ++ BitVec.ofBool w.lane0.oddParity⟩

/-- The same write with lane 0's parity bit wrong. -/
def wrBad (a : Addr) (w : Word) : HostBus := { wr a w with hdp := (wr a w).hdp ^^^ 1#2 }

/-- A read. -/
def rd (a : Addr) : HostBus := ⟨false, true, a, Lanes.both, 0#16, 0#2⟩

/-- The board with domain 0 changed. -/
def board0 (f : Domain → Domain) : State := modDomain .i0 f board

/-- Domain 0 OPEN with two entries; CEIL[0] as given. -/
def openBoard (ceil : Word) : State :=
  board0 fun x => { x with
    state := .opened, ceil := ceil, age := 5#16
    group := [⟨0x04A00#20, Lanes.both, 0x3311#16⟩, ⟨0x04A01#20, ⟨true, false⟩, 0x0022#16⟩] }

/-- A state with the store THROTTLED at the highest thresholds. -/
def throttled (s : State) : State := { s with store := ⟨.throttled, 255#16, 511#16⟩ }

/-- A tag-only record of domain 0. -/
def tagOnly : GroupRecord := ⟨0#16, .i0, 1#16, 0x04FFF#20, false, []⟩

/-- A state with a queue of n tag-only groups. -/
def queued (n : Nat) (s : State) : State := { s with queue := List.replicate n tagOnly }

/-- A state with an access held. -/
def held (a : Access) (h : Hold) (due : Bool) (s : State) : State :=
  setHost (.inProgress ⟨a, h, 3, due, false⟩) s

/-- A state whose MSS# has stood asserted since its reset. -/
def mssHeldIn (s : State) : State := { s with mgmt := { s.mgmt with mssHeld := true } }

/-- A state with an array access in progress. -/
def access (who : Requester) (r : Request) (due : Bool) (s : State) : State :=
  { s with port := { s.port with access := some ⟨who, r, 1, due⟩ } }

theorem noneWaiting_of_no_access {s : State} (h : ∀ p, s.host.port ≠ .inProgress p) : noneWaiting s :=
  fun p hp => absurd hp (h p)

theorem noneWaiting_of_hold {s : State} {p : Progress} (hs : s.host.port = .inProgress p)
    (h1 : ∀ d, p.hold ≠ .storeSpace d) (h2 : ∀ d tag, p.hold ≠ .queueSlot d tag) : noneWaiting s := by
  intro q hq
  rw [hs] at hq
  cases hq
  exact ⟨h1, h2⟩

/-- A staged write of domain 0 held for space, its limits as given. -/
theorem heldWrite_intro {s : State} {p : Progress} {d : Dom} {a : Addr} {l : Lanes} {w : Word}
    (hp : s.host.port = .inProgress p) (hh : p.hold = .storeSpace d) (ha : p.access = .write a l w none)
    (ht : takesWrites s d) (hf : s.store.flow = .throttled) (hl : s.power.low = false) (he : l.isEmpty = false)
    (hn : ∀ e ∈ (s.domains.get d).group, e.addr ≠ a) : heldWrite s p d a l w := by
  refine ⟨hp, hh, ⟨none, ha⟩, ?_⟩
  unfold holdSound
  rw [hh]
  exact ⟨ht, hf, hl, a, l, w, none, ha, he, hn⟩

/-- A commit of a domain held for a slot. -/
theorem heldCommit_intro {s : State} {p : Progress} {d : Dom} {tag : Word}
    (hp : s.host.port = .inProgress p) (hh : p.hold = .queueSlot d tag) (ht : takesWrites s d)
    (hc : (s.domains.get d).closing = true) (hq : s.queue.length = 32) (hl : s.power.low = false) :
    heldCommit s p d tag := by
  refine ⟨hp, hh, ?_⟩
  unfold holdSound
  rw [hh]
  exact ⟨ht, hc, hq, hl⟩

/-- A staged write of domain 0 at 0x04B00 that waits for space in a store THROTTLED at the highest thresholds. -/
def waitingWrite : Progress := ⟨.write 0x04B00#20 Lanes.both 7#16 none, .storeSpace .i0, 3, false, true⟩

/-- A state with that write held. -/
def withWaitingWrite (s : State) : State := setHost (.inProgress waitingWrite) (throttled s)

/-- A commit of domain 0 that waits for a slot of a queue of 32. -/
def waitingCommit : Progress := ⟨.write 0x04FFF#20 Lanes.both 7#16 none, .queueSlot .i0 7#16, 3, false, true⟩

/-- A state with that commit held, domain 0 closing. -/
def withWaitingCommit (s : State) : State :=
  setHost (.inProgress waitingCommit) (queued 32 (modDomain .i0 (fun x => { x with closing := true, age := 0#16 }) s))

theorem board_noneWaiting : noneWaiting board := noneWaiting_of_no_access fun _ h => (nomatch h)

/-! ### Witnesses: step, reset, management port -/

theorem witness_StepTakesFrontCommand :
    { State.reset with pending := [Instr.holdOn []] }.pending = Instr.holdOn [] :: [] ∧ State.reset.pending = [] :=
  ⟨rfl, rfl⟩

theorem witness_ResetStartsRecoveryOrIdles :
    (∀ a, board.port.access = some a → a.request.kind = .read)
      ∧ (⟨0#2, 0#2, false⟩ : Straps).jsz = 0#2 ∧ (⟨3#2, 3#2, true⟩ : Straps).jsz ≠ 0#2 :=
  ⟨fun _ h => (nomatch h), rfl, by decide⟩

theorem witness_RegisterMapAndWriteFrames :
    regAt 0x00#7 = some .id ∧ regAt 0x7F#7 = some (.winlim 15)
      ∧ (let t := afterInside [.tick true []] board
        Reg.writeRow (fun d => (t.domains.get d).enabled) 0x0001#16 [.tick true []] (.dctl .i0)
            = some (.dctlOptionsWrite .i0 1#16 [.tick true []])
          ∧ Reg.writeRow (fun d => (t.domains.get d).enabled) 0x0001#16 [] (.dctl .i3) = some (.domainEnable .i3 1#16 [])
          ∧ Reg.writeRow (fun d => (t.domains.get d).enabled) 0x0008#16 [] .ecmd = some (.unnamedEcmdCode 8#16 []))
      ∧ framesSeen board ∧ ¬framesSeen (mssHeldIn board) :=
  ⟨rfl, by decide, by decide, rfl, by unfold framesSeen; decide⟩

theorem witness_NoRegisterAndReadOnlyWrites :
    regAt 0x0F#7 = none ∧ regAt 0x54#7 = none ∧ regAt 0x5F#7 = none
      ∧ regAt 0x05#7 = some .laststat ∧ Reg.readOnly .laststat = true
      ∧ framesSeen board ∧ ¬framesSeen (mssHeldIn board) :=
  ⟨rfl, rfl, rfl, rfl, rfl, rfl, by unfold framesSeen; decide⟩

theorem witness_ReadFramesAndIncompleteFrames :
    regAt 0x22#7 = none ∧ regAt 0x23#7 = none ∧ regAt (BitVec.ofNat 7 (Reg.index .estat)) = some .estat
      ∧ regAt ((0x890000#24 : BitVec 24).extractLsb' 16 7) = some .free
      ∧ regAt ((0x220000#24 : BitVec 24).extractLsb' 16 7) = none
      ∧ framesSeen board ∧ ¬framesSeen (mssHeldIn board) :=
  ⟨rfl, rfl, rfl, rfl, rfl, rfl, by unfold framesSeen; decide⟩

theorem witness_RegisterFieldPlaces :
    let s := openBoard 64#16
    let x := s.domains.get .i0
    (board.engine.rdom.toNat ≤ 3 ∧ (queued 32 board).queue.length ≤ 32)
      ∧ (x.state = .opened ∧ x.closing = false ∧ x.autoPending = false ∧ s.ticks.chain01 = false ∧ s.ticks.chain23 = false)
      ∧ (board.domains.get .i0).state ≠ .opened := by decide

theorem witness_FlagsEnablesAndCounters :
    framesSeen (setFlag .hold board)
      ∧ (afterInside [.tick true [], .tick true []] board).flag .power = true :=
  ⟨rfl, by decide⟩

theorem witness_InterruptAndCause :
    let s := setFlag .throttle (setFlag .applied { board with mgmt := { board.mgmt with enables := 0x1FFF#13 } })
    board.irqAsserted = false
      ∧ ([.recfail, .fault, .power, .array, .broken, .hold, .parity, .dropped, .age] : List FlagId)
          ++ .throttle :: [.powerok, .recovered, .applied]
        = [.recfail, .fault, .power, .array, .broken, .hold, .parity, .dropped, .age, .throttle, .powerok, .recovered,
            .applied]
      ∧ s.flag .throttle = true ∧ s.mgmt.enables.getLsbD FlagId.throttle.num = true
      ∧ ∀ g ∈ ([.recfail, .fault, .power, .array, .broken, .hold, .parity, .dropped, .age] : List FlagId),
          ¬(s.flag g = true ∧ s.mgmt.enables.getLsbD g.num = true) := by decide

/-! ### Witnesses: settings -/

theorem board_framesSeen : framesSeen board := rfl

theorem openBoard_framesSeen (c : Word) : framesSeen (openBoard c) := rfl

theorem board_isQuiescent : isQuiescent board := by unfold isQuiescent; decide

theorem openBoard_not_quiescent : ¬isQuiescent (openBoard 64#16) := by unfold isQuiescent; decide

theorem witness_WindowTableWrites_base :
    framesSeen board ∧ (0x3000#16 : Word).extractLsb' 12 2 = 3#2
      ∧ ((0x9042#16 : Word).extractLsb' 12 2 = WindowKind.stage.code ∧ (0x9042#16 : Word).getLsbD 15 = true
        ∧ board.cl.windows[(0 : Fin 16)].limit < (0x9042#16 : Word).setWidth 12)
      ∧ ((0x9041#16 : Word).extractLsb' 12 2 = WindowKind.stage.code
        ∧ ¬((0x9041#16 : Word).getLsbD 15 = true
          ∧ board.cl.windows[(0 : Fin 16)].limit < (0x9041#16 : Word).setWidth 12)) := ⟨rfl, by decide⟩

theorem witness_WindowTableWrites_limit :
    (board.cl.windows[(0 : Fin 16)].enable = true
        ∧ ((0x003F#16 : Word).setWidth 12 : BitVec 12) < board.cl.windows[(0 : Fin 16)].base)
      ∧ ¬(board.cl.windows[(0 : Fin 16)].enable = true
        ∧ ((0x0040#16 : Word).setWidth 12 : BitVec 12) < board.cl.windows[(0 : Fin 16)].base) := by decide

theorem witness_HashAndDefaultWrites :
    framesSeen board ∧ (0x0030#16 : Word).extractLsb' 0 2 = 0#2 ∧ (0x0003#16 : Word).extractLsb' 0 2 = 3#2
      ∧ (0x0031#16 : Word).extractLsb' 0 2 = HashKind.stage.code ∧ (0x0002#16 : Word).extractLsb' 0 2 = HashKind.deny.code
      ∧ (0x0001#16 : Word).extractLsb' 0 2 = 1#2 ∧ (0x0000#16 : Word).extractLsb' 0 2 = DefaultAction.pass.code :=
  ⟨rfl, by decide⟩

theorem witness_CommitCellWrites :
    let s := board0 fun x => { x with cellLatch := 0x6000#16 }
    let b := board0 fun x => { x with cellLatch := 0xFCF8#16 }
    framesSeen s ∧ framesSeen b
      ∧ (journalBase b.straps ≤ ((0x7#16 : Word).setWidth 4 ++ (b.domains.get .i0).cellLatch : BitVec 20).toNat)
      ∧ (((0x0#16 : Word).setWidth 4 ++ (s.domains.get .i0).cellLatch : BitVec 20).toNat < journalBase s.straps
        ∧ (s.domains.get .i0).enabled = true ∧ Ix4.i1 ≠ Ix4.i0 ∧ (s.domains.get .i1).enabled = true
        ∧ (s.domains.get .i1).cell = (0x0#16 : Word).setWidth 4 ++ (s.domains.get .i0).cellLatch)
      ∧ (((0x0#16 : Word).setWidth 4 ++ (s.domains.get .i2).cellLatch : BitVec 20).toNat < journalBase s.straps
        ∧ (s.domains.get .i2).enabled = false) := ⟨rfl, rfl, by decide⟩

theorem witness_DomainEnablingAndDisabling :
    let s := modDomain .i2 (fun x => { x with cell := 0x06000#20 }) board
    framesSeen board ∧ framesSeen s ∧ (board.domains.get .i2).state = .off ∧ (0x0019#16 : Word).extractLsb' 3 2 = 3#2
      ∧ (0x0009#16 : Word).extractLsb' 3 2 = AgeAction.commit.code
      ∧ (s.domains.get .i2).state = .off ∧ (s.domains.get .i1).enabled = true
      ∧ (s.domains.get .i1).cell = (s.domains.get .i2).cell
      ∧ (board.domains.get .i1).cell ≠ (board.domains.get .i2).cell
      ∧ (board.domains.get .i0).cell ≠ (board.domains.get .i2).cell
      ∧ ((openBoard 64#16).domains.get .i0).state = .opened
      ∧ (board.domains.get .i0).state ≠ .off ∧ (board.domains.get .i0).state ≠ .opened := ⟨rfl, rfl, by decide⟩

theorem witness_DomainOptionAndCeilingWrites :
    framesSeen (openBoard 64#16) ∧ (255 = (if board.straps.jsz = 0#2 then 512 else journalRecords board.straps - 1))
      ∧ 255 < (256#16 : Word).toNat ∧ (255#16 : Word).toNat ≤ 255
      ∧ (1#16 : Word).toNat < ((openBoard 64#16).domains.get .i0).group.length
      ∧ ((openBoard 64#16).domains.get .i0).group.length ≤ (2#16 : Word).toNat
      ∧ (openBoard 64#16).queue = [] := ⟨rfl, by decide⟩

theorem witness_AcceptedAndRangedWrites :
    framesSeen board ∧ 255 < (256#16 : Word).toNat ∧ (255#16 : Word).toNat ≤ 255 ∧ (0#16 : Word).toNat = 0
      ∧ 1 ≤ (1#16 : Word).toNat := ⟨rfl, by decide⟩

theorem board_storeSound : storeSound board := by unfold storeSound; decide

/-- Every domain of a state is sound, checked domain by domain. -/
theorem domains_sound {s : State} (h0 : domainSound s.straps s.domains.at0) (h1 : domainSound s.straps s.domains.at1)
    (h2 : domainSound s.straps s.domains.at2) (h3 : domainSound s.straps s.domains.at3) :
    ∀ d, domainSound s.straps (s.domains.get d) := by
  intro d; cases d <;> assumption

theorem waitingWrite_held {s : State} (ht : takesWrites s .i0) (hl : s.power.low = false)
    (hn : ∀ e ∈ (s.domains.get .i0).group, e.addr ≠ 0x04B00#20) :
    heldWrite (withWaitingWrite s) waitingWrite .i0 0x04B00#20 Lanes.both 7#16 :=
  heldWrite_intro rfl rfl rfl ht rfl hl rfl hn

theorem waitingCommit_held {s : State} (ht : takesWrites s .i0) (hl : s.power.low = false) :
    heldCommit (withWaitingCommit s) waitingCommit .i0 7#16 :=
  heldCommit_intro rfl rfl ht rfl List.length_replicate hl

theorem openBoard_waitingWrite (c : Word) :
    heldWrite (withWaitingWrite (openBoard c)) waitingWrite .i0 0x04B00#20 Lanes.both 7#16 :=
  waitingWrite_held (Or.inr rfl) rfl (by simp [openBoard, board0, modDomain, Four.get, Four.set])

theorem openBoard_waitingCommit (c : Word) : heldCommit (withWaitingCommit (openBoard c)) waitingCommit .i0 7#16 :=
  waitingCommit_held (Or.inr rfl) rfl

theorem witness_ThresholdWrites :
    (framesSeen board ∧ board.store.resumelvl.toNat ≤ (48#16 : Word).toNat
        ∧ (16#16 : Word).toNat ≤ board.store.stalllvl.toNat)
      ∧ (noneWaiting board ∧ noneAgain board ∧ storeSound board ∧ (47#16 : Word).toNat ≤ 255
        ∧ (47#16 : Word).toNat < board.store.resumelvl.toNat)
      ∧ (noneWaiting board ∧ storeSound board ∧ (511#16 : Word).toNat ≤ 511
        ∧ board.store.stalllvl.toNat < (511#16 : Word).toNat) :=
  ⟨⟨rfl, by decide⟩, ⟨board_noneWaiting, rfl, board_storeSound, by decide, by decide⟩,
    ⟨board_noneWaiting, board_storeSound, by decide, by decide⟩⟩

theorem openBoard_domains : ∀ d, domainSound (openBoard 2#16).straps ((openBoard 2#16).domains.get d) := by
  refine domains_sound ?_ ?_ ?_ ?_ <;> (unfold domainSound addressesDistinct; decide)

theorem openBoard_storeSound : storeSound (openBoard 2#16) := by unfold storeSound; decide

theorem throttled_storeSound : storeSound (throttled (openBoard 2#16)) := by unfold storeSound; decide

/-- A held write and a held commit before a write of STALLLVL and of RESUMELVL. -/
theorem witness_ThresholdWrites_waiting :
    let s := withWaitingWrite (openBoard 2#16)
    let c := withWaitingCommit (openBoard 2#16)
    (framesSeen s ∧ storeSound s ∧ noneAgain s ∧ heldWrite s waitingWrite .i0 0x04B00#20 Lanes.both 7#16
        ∧ domainSound s.straps (s.domains.get .i0)
        ∧ (255#16 : Word).toNat ≤ 255 ∧ (255#16 : Word).toNat < s.store.resumelvl.toNat
        ∧ (256#16 : Word).toNat ≤ 511 ∧ s.store.stalllvl.toNat < (256#16 : Word).toNat)
      ∧ (heldCommit c waitingCommit .i0 7#16 ∧ c.engine.state.stopped = false ∧ storeSound c) :=
  ⟨⟨rfl, throttled_storeSound, rfl, openBoard_waitingWrite _, openBoard_domains _, by decide⟩,
    ⟨openBoard_waitingCommit _, rfl, by unfold storeSound; decide⟩⟩

/-- The domains whose state bars a change of their chain setting. -/
def unfree (s : State) (d : Dom) : Prop := (s.domains.get d).state = .opened ∨ (s.domains.get d).state = .broken

theorem witness_ChainWrites :
    framesSeen (openBoard 64#16) ∧ (∀ d, unfree (openBoard 64#16) d
        ↔ (((openBoard 64#16).domains.get d).state = .opened ∨ ((openBoard 64#16).domains.get d).state = .broken))
      ∧ ((1#16 : Word).getLsbD 0 ≠ (openBoard 64#16).ticks.chain01 ∧ unfree (openBoard 64#16) .i0)
      ∧ ((2#16 : Word).getLsbD 0 = (openBoard 64#16).ticks.chain01 ∧ ¬unfree (openBoard 64#16) .i2
        ∧ ¬unfree (openBoard 64#16) .i3) :=
  ⟨rfl, fun _ => Iff.rfl, ⟨by decide, Or.inl rfl⟩, ⟨by decide, by unfold unfree; decide, by unfold unfree; decide⟩⟩

theorem witness_DiagnosticRead :
    let s := { board with diag := { board.diag with latch := 0xFFFF#16 } }
    let b := access .mgmt ⟨.read, 0x7FFFF#20, 0#16, Lanes.both⟩ true { s with diag := { s.diag with status := .pending } }
    framesSeen s ∧ framesSeen b ∧ (arrayWords s.straps ≤ ((0x8#16 : Word).setWidth 4 ++ s.diag.latch : BitVec 20).toNat)
      ∧ (((0x7#16 : Word).setWidth 4 ++ s.diag.latch : BitVec 20).toNat < arrayWords s.straps
        ∧ s.diag.status ≠ .pending ∧ s.port.access = none ∧ s.port.hostReq = none ∧ s.port.engineReq = none)
      ∧ (b.diag.status = .pending
        ∧ b.port.access = some ⟨.mgmt, ⟨.read, 0x7FFFF#20, 0#16, Lanes.both⟩, 1, true⟩)
      ∧ (access .host ⟨.read, 0#20, 0#16, Lanes.both⟩ false s).port.access
        = some ⟨.host, ⟨.read, 0#20, 0#16, Lanes.both⟩, 1, false⟩ := ⟨rfl, rfl, by decide⟩

/-! ### Witnesses: engine commands -/

/-- With no engine access and an engine state that asks for none, the engine is sound. -/
theorem engineSound_of_no_request {s : State} (h1 : s.engine.state.inFlight = true → s.queue ≠ [])
    (h2 : s.port.access = none) (h3 : s.port.engineReq = none) (h4 : engineRequest s = none) : engineSound s :=
  ⟨h1, by simp [engineOutstanding, h2, h3, h4], fun a h => by rw [h2] at h; cases h⟩

/-- The board with the engine in a state. -/
def engineAt (e : EngineState) (s : State) : State := setEngine e s

theorem witness_RecoveryAndRefusedCommands :
    (framesSeen (engineAt (.blocked .array false) board) ∧ (0#16 : Word).toNat = 0 ∧ 8 ≤ (8#16 : Word).toNat)
      ∧ (∀ p i, board.engine.state ≠ .faulted p i)
      ∧ (engineAt (.recovering .marker) board).engine.state.isRecovering = true
      ∧ board.engine.state.isBlocked = false
      ∧ (engineAt (.blocked .check true) board).engine.state = .blocked .check true
      ∧ ((engineAt (.blocked .array false) board).engine.state = .blocked .array false
        ∧ engineSound (engineAt (.blocked .array false) board)) :=
  ⟨⟨rfl, by decide⟩, fun _ _ h => (nomatch h), rfl, rfl, rfl, rfl,
    engineSound_of_no_request (by decide) rfl rfl rfl⟩

theorem waitingSound_of_heldWrite {s : State} {p : Progress} {d : Dom} {a : Addr} {l : Lanes} {w : Word}
    (h : heldWrite s p d a l w) : waitingSound s :=
  Or.inr fun q hq => by have := h.1.symm.trans hq; cases this; exact h.2.2.2

theorem witness_HoldAndRetryCommands :
    let s := queued 1 { board with engine := { board.engine with hold := true } }
    let f := queued 1 (engineAt (.faulted .marking 7) board)
    (framesSeen s ∧ s.engine.state = .idle ∧ s.queue ≠ [] ∧ s.power.low = false ∧ s.engine.hold = true ∧ waitingSound s
        ∧ engineSound s)
      ∧ (framesSeen f ∧ f.engine.state = .faulted .marking 7 ∧ waitingSound f ∧ engineSound f)
      ∧ board.queue = []
      ∧ waitingSound (withWaitingWrite (openBoard 3#16)) :=
  ⟨⟨rfl, rfl, by decide, rfl, rfl, Or.inl (noneWaiting_of_no_access fun _ h => (nomatch h)),
      engineSound_of_no_request (by decide) rfl rfl rfl⟩,
    ⟨rfl, rfl, Or.inl (noneWaiting_of_no_access fun _ h => (nomatch h)),
      engineSound_of_no_request (by decide) rfl rfl rfl⟩, rfl,
    waitingSound_of_heldWrite (openBoard_waitingWrite _)⟩

theorem witness_AbandonHeadDiscardsTheHead :
    let g : GroupRecord := { tagOnly with sync := true, entries := [⟨0x04A00#20, Lanes.both, 1#16⟩] }
    let s := held (.write 0x04FFF#20 Lanes.both 1#16 none) (.sync .i0) false
      { engineAt (.faulted .copying 0) board with queue := [g] }
    framesSeen s ∧ noneAgain s ∧ s.engine.state = .faulted .copying 0 ∧ s.queue = g :: [] ∧ g.sync = true
      ∧ noneWaiting s ∧ (∀ d, (s.domains.get d).autoPending = false) ∧ engineSound s ∧ storeSound s := by
  refine ⟨rfl, rfl, rfl, rfl, rfl, noneWaiting_of_hold rfl (fun _ h => (nomatch h)) (fun _ _ h => (nomatch h)), ?_, ?_, ?_⟩
  · intro d; cases d <;> rfl
  · exact engineSound_of_no_request (by decide) rfl rfl rfl
  · unfold storeSound; decide

/-- The open board, its engine FAULTED in COPYING over a queue of one group, and a staged write held for space. -/
def faultedWaiting : State := withWaitingWrite { engineAt (.faulted .copying 0) (openBoard 2#16) with queue := [example6] }

theorem witness_AbandonHeadDiscardsTheHead_waiting :
    framesSeen faultedWaiting ∧ noneAgain faultedWaiting ∧ (∀ d, (faultedWaiting.domains.get d).autoPending = false)
      ∧ engineSound faultedWaiting ∧ storeSound faultedWaiting
      ∧ heldWrite faultedWaiting waitingWrite .i0 0x04B00#20 Lanes.both 7#16
      ∧ domainSound faultedWaiting.straps (faultedWaiting.domains.get .i0) := by
  refine ⟨rfl, rfl, ?_, engineSound_of_no_request (by decide) rfl rfl rfl, by unfold storeSound; decide,
    heldWrite_intro rfl rfl rfl (Or.inr rfl) rfl rfl rfl (by decide), openBoard_domains .i0⟩
  intro d; cases d <;> rfl

theorem witness_StageClearDiscards :
    let s := openBoard 2#16
    framesSeen s ∧ noneAgain s ∧ s.engine.state.isRecovering = false ∧ s.engine.state.isBlocked = false
      ∧ (∀ p, s.host.port ≠ .inProgress p) ∧ (∀ d, domainSound s.straps (s.domains.get d)) ∧ storeSound s :=
  ⟨rfl, rfl, rfl, rfl, fun _ h => (nomatch h), openBoard_domains, openBoard_storeSound⟩

/-- A staged write held in OPEN, one held in EMPTY, a commit held for a slot, and one held for sync whose record goes. -/
theorem witness_StageClearDiscards_held :
    (heldWrite (withWaitingWrite (openBoard 2#16)) waitingWrite .i0 0x04B00#20 Lanes.both 7#16
        ∧ ((withWaitingWrite (openBoard 2#16)).domains.get .i0).state = .opened
        ∧ storeSound (withWaitingWrite (openBoard 2#16)))
      ∧ (heldWrite (withWaitingWrite board) waitingWrite .i0 0x04B00#20 Lanes.both 7#16
        ∧ ((withWaitingWrite board).domains.get .i0).state = .empty
        ∧ ((withWaitingWrite board).domains.get .i0).closing = false)
      ∧ (heldCommit (withWaitingCommit (openBoard 2#16)) waitingCommit .i0 7#16
        ∧ storeSound (withWaitingCommit (openBoard 2#16))
        ∧ domainSound board.straps ((withWaitingCommit (openBoard 2#16)).domains.get .i0))
      ∧ (let s := { openBoard 2#16 with queue := [{ tagOnly with sync := true }] }
        s.engine.state.inFlight = false ∧ ∃ g ∈ s.queue.drop 0, g.sync = true) :=
  ⟨⟨openBoard_waitingWrite _, rfl, throttled_storeSound⟩,
    ⟨waitingWrite_held (Or.inl rfl) rfl (fun _ h => (nomatch h)), rfl, rfl⟩,
    ⟨openBoard_waitingCommit _, by unfold storeSound; decide, by unfold domainSound addressesDistinct; decide⟩,
    ⟨rfl, _, List.mem_singleton_self _, rfl⟩⟩

/-! ### Witnesses: host accesses -/

theorem board_ready : ready board := ⟨rfl, rfl⟩

theorem board_writesTaken : writesTaken board := ⟨board_ready, rfl, rfl⟩

theorem open_writesTaken (c : Word) : writesTaken (openBoard c) := ⟨⟨rfl, rfl⟩, rfl, rfl⟩

/-- A write of both lanes. -/
theorem wr_isWrite (a : Addr) (w : Word) : isWrite (wr a w) := ⟨rfl, rfl, rfl⟩

theorem wrBad_isWrite (a : Addr) (w : Word) : isWrite (wrBad a w) := ⟨rfl, rfl, rfl⟩

theorem witness_ClassificationOrder :
    (cellsDistinct board ∧ (board.domains.get .i1).enabled = true ∧ (board.domains.get .i1).cell = 0x06000#20)
      ∧ (∀ d, (board.domains.get d).enabled = true → (board.domains.get d).cell ≠ 0x80000#20)
      ∧ (arrayWords board.straps ≤ (0x80000#20 : Addr).toNat ∧ (0x7FFFF#20 : Addr).toNat < arrayWords board.straps
        ∧ journalBase board.straps ≤ (0x7FCF8#20 : Addr).toNat ∧ (0x7FCF7#20 : Addr).toNat < journalBase board.straps)
      ∧ (board.cl.windows[(1 : Fin 16)].enable = true ∧ board.cl.windows[(1 : Fin 16)].base.toNat ≤ 0x42
        ∧ 0x42 ≤ board.cl.windows[(1 : Fin 16)].limit.toNat
        ∧ ¬(board.cl.windows[(0 : Fin 16)].enable = true ∧ board.cl.windows[(0 : Fin 16)].base.toNat ≤ 0x42
          ∧ 0x42 ≤ board.cl.windows[(0 : Fin 16)].limit.toNat))
      ∧ (39 = (0x123 / 64) ^^^ (0x123 % 64) ∧ Ix4.toNat .i2 = 39 / 16 ∧ (board.cl.hset.get .i2).getLsbD (39 % 16) = true
        ∧ 0 = (0 / 64) ^^^ (0 % 64) ∧ Ix4.toNat .i0 = 0 / 16 ∧ (board.cl.hset.get .i0).getLsbD (0 % 16) = false) := by
  refine ⟨⟨?_, by decide⟩, ?_, by decide, by decide, by decide⟩
  · intro d e; cases d <;> cases e <;> decide
  · intro d; cases d <;> decide

theorem witness_ClassificationOrder_no_window :
    ∀ i : Fin 16, ¬(board.cl.windows[i].enable = true ∧ board.cl.windows[i].base.toNat ≤ 0x123
      ∧ 0x123 ≤ board.cl.windows[i].limit.toNat) := by decide

theorem witness_WritesDroppedByClass :
    (ready (engineAt (.blocked .check false) board)
        ∧ (engineAt (.blocked .check false) board).engine.state.isBlocked = true)
      ∧ (ready board ∧ isWrite (wr 0x80000#20 1#16) ∧ board.engine.state.isBlocked = false ∧ board.power.low = false)
      ∧ (classify board 0x80000#20 = .outside ∧ classify board 0x7FFFF#20 = .reserved
        ∧ classify board 0x04123#20 = .deny ∧ classify board 0x07010#20 = .stage .i2
        ∧ (board.domains.get .i2).state = .off)
      ∧ { board with power := ⟨true, true, true⟩ }.power.low = true :=
  ⟨⟨⟨rfl, rfl⟩, rfl⟩, ⟨board_ready, wr_isWrite _ _, rfl, rfl⟩, by decide, rfl⟩

theorem witness_AccessesThatNeedNoArray :
    (ready board ∧ ({ wr 0#20 0#16 with hoe := true } : HostBus).hoe = true
        ∧ ({ wr 0#20 0#16 with hbe := ⟨false, false⟩ } : HostBus).hbe.isEmpty = true)
      ∧ (isRead (rd 0x7FCF8#20) ∧ classify board 0x7FCF8#20 = .reserved ∧ classify board 0xFFFFF#20 = .outside)
      ∧ ((setHost .ending board).host.port ≠ .idle
        ∧ (held .malformed .recovery false board).host.port = .inProgress ⟨.malformed, .recovery, 3, false, false⟩)
      ∧ ((engineAt (.recovering .marker) board).host.port = .idle
        ∧ (engineAt (.recovering .marker) board).engine.state.isRecovering = true) :=
  ⟨⟨board_ready, rfl, rfl⟩, ⟨⟨rfl, rfl⟩, by decide⟩, ⟨by decide, rfl⟩, rfl, rfl⟩

theorem witness_HostReadsOfTheArray :
    (ready board ∧ isRead (rd 0x04123#20) ∧ classify board 0x04123#20 = .deny ∧ classify board 0x08000#20 = .pass
        ∧ classify board 0x06000#20 = .commitCell .i1
        ∧ classify board 0x07010#20 = .stage .i2 ∧ (board.domains.get .i2).state = .off
        ∧ board.port.access = none ∧ board.port.engineReq = none)
      ∧ (ready (openBoard 64#16) ∧ classify (openBoard 64#16) 0x04A01#20 = .stage .i0
        ∧ ((openBoard 64#16).domains.get .i0).state ≠ .off
        ∧ storeLane (openBoard 64#16) .i0 0x04A01#20 true = none
        ∧ storeLane (openBoard 64#16) .i0 0x04A01#20 false = some 0x22#8) :=
  ⟨⟨board_ready, ⟨rfl, rfl⟩, by decide⟩, ⟨rfl, rfl⟩, by decide⟩

theorem witness_HostReadsOfTheArray_end :
    let r : Request := ⟨.read, 0x04A01#20, 0#16, Lanes.both⟩
    let s := access .host r false (held (.read 0x04A01#20) (.mergeRead .i0) false (openBoard 64#16))
    let u := access .host r false (held (.read 0x04A01#20) .plainRead false board)
    (noneAgain s ∧ s.host.port = .inProgress ⟨.read 0x04A01#20, .mergeRead .i0, 3, false, false⟩
        ∧ s.port.access = some ⟨.host, r, 1, false⟩)
      ∧ (u.host.port = .inProgress ⟨.read 0x04A01#20, .plainRead, 3, false, false⟩
        ∧ u.port.access = some ⟨.host, r, 1, false⟩) := ⟨⟨rfl, rfl, rfl⟩, rfl, rfl⟩

theorem witness_ForwardedReadsAndLookupOrder :
    ready (openBoard 64#16) ∧ isRead (rd 0x04A00#20) ∧ classify (openBoard 64#16) 0x04A00#20 = .stage .i0
      ∧ ((openBoard 64#16).domains.get .i0).state ≠ .off
      ∧ storeLane (openBoard 64#16) .i0 0x04A00#20 false = some 0x11#8
      ∧ storeLane (openBoard 64#16) .i0 0x04A00#20 true = some 0x33#8 :=
  ⟨⟨rfl, rfl⟩, ⟨rfl, rfl⟩, by decide⟩

theorem witness_ForwardedReadsAndLookupOrder_queue :
    let s := { openBoard 64#16 with queue := [tagOnly] ++ example6 :: [tagOnly] }
    let e : Entry := ⟨0x04B00#20, Lanes.both, 0x4444#16⟩
    (∀ e ∈ (s.domains.get .i0).group, e.addr = 0x04B00#20 → e.lanes.lane1 = false)
      ∧ s.queue = [tagOnly] ++ example6 :: [tagOnly] ∧ example6.domain = .i0 ∧ e ∈ example6.entries
      ∧ addressesDistinct example6.entries ∧ e.addr = 0x04B00#20 ∧ e.lanes.lane1 = true
      ∧ ∀ n ∈ [tagOnly], n.domain = .i0 → ∀ f ∈ n.entries, f.addr = 0x04B00#20 → f.lanes.lane1 = false := by
  unfold addressesDistinct; decide

theorem witness_StagedWritesTaken :
    (writesTaken board ∧ isWrite (wr 0x04A00#20 7#16) ∧ parityGood board (wr 0x04A00#20 7#16)
        ∧ classify board 0x04A00#20 = .stage .i0 ∧ takesWrites board .i0 ∧ (board.domains.get .i0).state ≠ .opened
        ∧ board.store.flow = .flowing)
      ∧ (writesTaken (openBoard 3#16) ∧ parityGood (openBoard 3#16) (wr 0x04B00#20 7#16)
        ∧ classify (openBoard 3#16) 0x04B00#20 = .stage .i0 ∧ takesWrites (openBoard 3#16) .i0
        ∧ (∀ e ∈ ((openBoard 3#16).domains.get .i0).group, e.addr ≠ 0x04B00#20)
        ∧ ((openBoard 3#16).domains.get .i0).group.length < ((openBoard 3#16).domains.get .i0).ceil.toNat)
      ∧ (classify (openBoard 2#16) 0x04A01#20 = .stage .i0 ∧ ((openBoard 2#16).domains.get .i0).state = .opened
        ∧ ∃ e ∈ ((openBoard 2#16).domains.get .i0).group, e.addr = 0x04A01#20) :=
  ⟨⟨board_writesTaken, wr_isWrite _ _, by unfold parityGood laneParityGood; decide, by decide, Or.inl rfl, by decide, rfl⟩,
    ⟨open_writesTaken _, by unfold parityGood laneParityGood; decide, by decide, Or.inr rfl, by decide, by decide⟩,
    by decide⟩

theorem witness_StagedWritesThatBreakOrWait :
    (writesTaken (openBoard 2#16) ∧ isWrite (wr 0x04B00#20 7#16) ∧ parityGood (openBoard 2#16) (wr 0x04B00#20 7#16)
        ∧ classify (openBoard 2#16) 0x04B00#20 = .stage .i0 ∧ ((openBoard 2#16).domains.get .i0).state = .opened
        ∧ (∀ e ∈ ((openBoard 2#16).domains.get .i0).group, e.addr ≠ 0x04B00#20)
        ∧ ((openBoard 2#16).domains.get .i0).ceil.toNat ≤ ((openBoard 2#16).domains.get .i0).group.length
        ∧ storeSound (openBoard 2#16))
      ∧ (let b := board0 fun x => { x with state := .broken }
        writesTaken b ∧ classify b 0x04B00#20 = .stage .i0 ∧ (b.domains.get .i0).state = .broken) :=
  ⟨⟨open_writesTaken _, wr_isWrite _ _, by unfold parityGood laneParityGood; decide, by decide, rfl, by decide, by decide,
      openBoard_storeSound⟩, ⟨⟨rfl, rfl⟩, rfl, rfl⟩, by decide, rfl⟩

theorem witness_StagedWritesThatBreakOrWait_throttled :
    let t := throttled (openBoard 3#16)
    (writesTaken t ∧ parityGood t (wr 0x04B00#20 7#16) ∧ classify t 0x04B00#20 = .stage .i0 ∧ takesWrites t .i0
        ∧ t.store.flow = .throttled ∧ (∀ e ∈ (t.domains.get .i0).group, e.addr ≠ 0x04B00#20)
        ∧ (t.domains.get .i0).group.length < (t.domains.get .i0).ceil.toNat)
      ∧ (t.queue = [] ∧ storeSound t ∧ ∀ e, domainSound t.straps (t.domains.get e))
      ∧ ((queued 1 t).queue ≠ [] ∧ ∀ p i, (queued 1 t).engine.state ≠ .faulted p i) := by
  refine ⟨⟨⟨⟨rfl, rfl⟩, rfl, rfl⟩, by unfold parityGood laneParityGood; decide, by decide, Or.inr rfl, rfl, by decide,
    by decide⟩, ⟨rfl, by unfold storeSound; decide, ?_⟩, by decide, fun _ _ h => (nomatch h)⟩
  refine domains_sound ?_ ?_ ?_ ?_ <;> (unfold domainSound addressesDistinct; decide)

theorem witness_WritesOfBadParityOrOneLane :
    (writesTaken board ∧ isWrite (wrBad 0x08000#20 7#16) ∧ ¬parityGood board (wrBad 0x08000#20 7#16)
        ∧ classify board 0x08000#20 = .pass)
      ∧ (¬parityGood (openBoard 2#16) (wrBad 0x04FFF#20 7#16) ∧ classify (openBoard 2#16) 0x04FFF#20 = .commitCell .i0
        ∧ (wrBad 0x04FFF#20 7#16).hbe = Lanes.both ∧ takesWrites (openBoard 2#16) .i0 ∧ storeSound (openBoard 2#16)
        ∧ domainSound (openBoard 2#16).straps ((openBoard 2#16).domains.get .i0))
      ∧ (let one : HostBus := { wr 0x04FFF#20 7#16 with hbe := ⟨true, false⟩ }
        isWrite one ∧ one.hbe ≠ Lanes.both ∧ classify board 0x04FFF#20 = .commitCell .i0
          ∧ (board.domains.get .i0).state = .empty) :=
  ⟨⟨board_writesTaken, wrBad_isWrite _ _, by unfold parityGood laneParityGood; decide, by decide⟩,
    ⟨by unfold parityGood laneParityGood; decide, by decide, rfl, Or.inr rfl, openBoard_storeSound, openBoard_domains _⟩,
    ⟨rfl, rfl, rfl⟩, by decide, by decide, rfl⟩

theorem witness_PassThroughWrites :
    (writesTaken board ∧ isWrite (wr 0x08000#20 7#16) ∧ parityGood board (wr 0x08000#20 7#16)
        ∧ classify board 0x08000#20 = .pass)
      ∧ (let r : Request := ⟨.write, 0x08000#20, 7#16, Lanes.both⟩
        let a : Access := .write 0x08000#20 Lanes.both 7#16 none
        let s := access .host r false (held a .passWrite false board)
        arrayCanonical s ∧ noneAgain s ∧ s.host.port = .inProgress ⟨a, .passWrite, 3, false, false⟩ ∧ r.kind = .write
          ∧ s.port.access = some ⟨.host, r, 1, false⟩) :=
  ⟨⟨board_writesTaken, wr_isWrite _ _, by unfold parityGood laneParityGood; decide, by decide⟩, rfl, rfl, rfl, rfl, rfl⟩

theorem witness_CommitQueuesTheGroup :
    let s := queued 31 { openBoard 2#16 with engine := { board.engine with hold := true } }
    writesTaken s ∧ isWrite (wr 0x04FFF#20 7#16) ∧ (wr 0x04FFF#20 7#16).hbe = Lanes.both
      ∧ parityGood s (wr 0x04FFF#20 7#16) ∧ classify s 0x04FFF#20 = .commitCell .i0 ∧ (7#16 : Word) ≠ s.abortval
      ∧ takesWrites s .i0 ∧ s.queue.length < 32 ∧ engineSound s :=
  ⟨⟨⟨rfl, rfl⟩, rfl, rfl⟩, wr_isWrite _ _, rfl, by unfold parityGood laneParityGood; decide, by decide, by decide,
    Or.inr rfl, by decide, engineSound_of_no_request (by decide) rfl rfl rfl⟩

theorem witness_CommitCellWritesThatDoNotQueue :
    let s := queued 32 (openBoard 2#16)
    let f := engineAt (.faulted .homing 0) s
    (writesTaken s ∧ parityGood s (wr 0x04FFF#20 7#16) ∧ classify s 0x04FFF#20 = .commitCell .i0
        ∧ (7#16 : Word) ≠ s.abortval ∧ takesWrites s .i0 ∧ s.queue.length = 32 ∧ (∀ p i, s.engine.state ≠ .faulted p i))
      ∧ (writesTaken f ∧ f.engine.state = .faulted .homing 0 ∧ storeSound f
        ∧ domainSound f.straps (f.domains.get .i0))
      ∧ ((0xFFFF#16 : Word) = board.abortval ∧ (board.domains.get .i0).state = .empty
        ∧ ((board0 fun x => { x with state := .broken }).domains.get .i0).state = .broken) :=
  ⟨⟨⟨⟨rfl, rfl⟩, rfl, rfl⟩, by unfold parityGood laneParityGood; decide, by decide, by decide, Or.inr rfl, by decide,
      fun _ _ h => (nomatch h)⟩,
    ⟨⟨⟨rfl, rfl⟩, rfl, rfl⟩, rfl, by unfold storeSound; decide, openBoard_domains _⟩, rfl, rfl, rfl⟩

theorem witness_HostPortEndsAndDrivenWord :
    (setHost (.driving 5#16) board).host.port = .driving 5#16 ∧ board.straps.hpar = true
      ∧ State.reset.straps.hpar = false ∧ State.reset.host.port = .ending
      ∧ (held .malformed .recovery false board).host.port = .inProgress ⟨.malformed, .recovery, 3, false, false⟩ :=
  ⟨rfl, rfl, rfl, rfl, rfl⟩

/-- A commit held for sync whose strobes have ended early, its hold limit due. -/
def syncEnded (due : Bool) : State :=
  setHost (.inProgress ⟨.write 0x04FFF#20 Lanes.both 1#16 none, .sync .i0, 3, due, true⟩)
    { board with queue := [{ tagOnly with sync := true }] }

/-- Under strobes that ended early: a command that leaves the access in progress, and one that ends it. -/
theorem witness_HostPortEndsAndDrivenWord_ended :
    noneAgain (syncEnded true)
      ∧ (syncEnded true).host.port = .inProgress ⟨.write 0x04FFF#20 Lanes.both 1#16 none, .sync .i0, 3, true, true⟩
      ∧ (∃ u, exec .holdLimitExpiry (syncEnded true) = .next u ∧ u.host.port = .idle)
      ∧ (∃ u, exec (.holdOn []) (syncEnded true) = .next u ∧ u.host.port ≠ .idle) :=
  ⟨rfl, rfl, ⟨_, rfl, by decide⟩, ⟨_, rfl, by decide⟩⟩

/-- R65: signals asserted again under such an access are an arrival at the return to IDLE, with the levels of then. -/
theorem test_arrival_at_the_return_to_idle :
    ∃ t u, exec (.hostAccessArrival (rd 0x7FFFF#20)) (syncEnded true) = .next t
      ∧ t.host.port = (syncEnded true).host.port
      ∧ exec .holdLimitExpiry t = .next u ∧ u.host.port = .driving 0#16 ∧ u.host.again = none :=
  ⟨_, _, rfl, rfl, rfl, by decide, by decide⟩

/-- R184: a frame under an MSS# held since the reset is none, and the next frame is one. -/
theorem test_frame_under_held_mss :
    ∃ t u v, exec (.reset ⟨0#2, 0#2, false⟩ none true) board = .next t
      ∧ exec (.holdOn []) t = .next u ∧ u.engine.hold = false ∧ u.mgmt.mssHeld = false
      ∧ exec (.holdOn []) u = .next v ∧ v.engine.hold = true :=
  ⟨_, _, _, rfl, rfl, by decide, by decide, rfl, by decide⟩

/-- R173: an incomplete frame shows the last status in its byte 0, and the last status stays. -/
theorem test_incomplete_frame_shows_the_last_status :
    ∃ t u, exec (.unnamedEcmdCode 9#16) board = .next t ∧ exec (.incompleteFrame 0x890000#24 8) t = .next u
      ∧ u.mgmt.mso = ⟨0x02#8, 0x0200#16, 8⟩ ∧ u.mgmt.lastStatus = .range :=
  ⟨_, _, rfl, rfl, by decide, by decide⟩

/-- R169: the levels of MSO, most significant bit first, and low after byte 2. -/
theorem test_mso_levels :
    (List.range 26).map (Mso.level ⟨0x02#8, 0x7140#16, 24⟩)
      = [false, false, false, false, false, false, true, false, false, true, true, true, false, false, false, true,
          false, true, false, false, false, false, false, false, false, false] := by decide

/-- R183: an event between the snapshot and the clear of a counter is in neither count. -/
theorem test_event_between_snapshot_and_clear :
    ∃ t, exec (.counterClear .writesDropped 0#16 [.hostArrival (wr 0x90000#20 1#16)]) board = .next t
      ∧ t.mgmt.counters.writesDropped = 0#16 ∧ t.mgmt.mso = ⟨0#8, 0#16, 24⟩ ∧ t.host.dropcause = .unmapped :=
  ⟨_, rfl, by decide, by decide, by decide⟩

theorem witness_HoldLimitExpiries :
    let a : Access := .write 0x04B00#20 Lanes.both 7#16 none
    let s := held a (.storeSpace .i0) true (throttled (openBoard 2#16))
    let q := held (.write 0x04FFF#20 Lanes.both 7#16 none) (.queueSlot .i0 7#16) true (queued 32 (openBoard 2#16))
    (noneAgain s ∧ s.host.port = .inProgress ⟨a, .storeSpace .i0, 3, true, false⟩ ∧ takesWrites s .i0 ∧ s.store.flow = .throttled
        ∧ s.power.low = false ∧ storeSound s ∧ domainSound s.straps (s.domains.get .i0))
      ∧ (takesWrites q .i0 ∧ q.queue.length = 32 ∧ storeSound q ∧ domainSound q.straps (q.domains.get .i0))
      ∧ (held a (.sync .i0) true board).host.port = .inProgress ⟨a, .sync .i0, 3, true, false⟩ :=
  ⟨⟨rfl, rfl, Or.inr rfl, rfl, rfl, by unfold storeSound; decide, openBoard_domains _⟩,
    ⟨Or.inr rfl, by decide, by unfold storeSound; decide, openBoard_domains _⟩, rfl⟩

/-! ### Witnesses: array port, apply, recovery -/

theorem witness_ArbitrationAndStarvation_frames : framesSeen board := rfl

theorem witness_ArbitrationAndStarvation :
    let r : Request := ⟨.read, 0#20, 0#16, Lanes.both⟩
    let p := { board.port with hostReq := some r, engineReq := some r, starveCount := 3 }
    p.access = none ∧ p.hostReq = some r ∧ p.engineReq = some r ∧ p.starveCount < p.starve.toNat
      ∧ { p with starveCount := 4 }.starve.toNat ≤ 4
      ∧ (15#16 : Word).toNat ≤ 15 ∧ 15 < (16#16 : Word).toNat := by decide

theorem witness_ArrayContents :
    (∃ t, exec (.holdOn [.tick true []]) board = .next t)
      ∧ (∃ t, exec (.arrayAccessComplete none) board = .next t)
      ∧ (∃ t, exec (.tick false [.array none]) board = .next t)
      ∧ Memory.wf (Memory.store [] 0xFFFFF#20 Lanes.both 0x1234#16) = true := ⟨⟨_, rfl⟩, ⟨_, rfl⟩, ⟨_, rfl⟩, by decide⟩

theorem witness_HostAccessTimesOut :
    let r : Request := ⟨.read, 0x04A01#20, 0#16, Lanes.both⟩
    let w : Request := ⟨.write, 0x08000#20, 7#16, Lanes.both⟩
    let s := access .host r true (held (.read 0x04A01#20) (.mergeRead .i0) false board)
    let u := access .host w true (held (.write 0x08000#20 Lanes.both 7#16 none) .passWrite false board)
    (noneAgain s ∧ s.host.port = .inProgress ⟨.read 0x04A01#20, .mergeRead .i0, 3, false, false⟩
        ∧ s.port.access = some ⟨.host, r, 1, true⟩ ∧ r.kind = .read)
      ∧ (u.host.port = .inProgress ⟨.write 0x08000#20 Lanes.both 7#16 none, .passWrite, 3, false, false⟩
        ∧ u.port.access = some ⟨.host, w, 1, true⟩ ∧ w.kind = .write) := ⟨⟨rfl, rfl, rfl, rfl⟩, rfl, rfl, rfl⟩

/-- A board in an apply, with the access its engine state asks for in progress. -/
def applying (e : EngineState) (q : List GroupRecord) (due : Bool) (s : State) : State :=
  let t := { engineAt e s with queue := q }
  match engineRequest t with
  | some r => access .engine r due t
  | none => t

theorem engineSound_of_access {s : State} {r : Request} {n : Nat} {due : Bool}
    (h1 : s.engine.state.inFlight = true → s.queue ≠ []) (h2 : s.port.access = some ⟨.engine, r, n, due⟩)
    (h3 : s.port.engineReq = none) (h4 : engineRequest s = some r) : engineSound s :=
  ⟨h1, by simp [engineOutstanding, h2, h4], fun _ _ _ => h3⟩

theorem witness_ApplyStepsAndWrites :
    let s := applying (.copying 3 2) [example6] false board
    let r : Request := ⟨.write, 0x7FD0B#20, 0x0101#16, Lanes.both⟩
    s.port.access = some ⟨.engine, r, 1, false⟩ ∧ s.queue = example6 :: [] ∧ s.engine.state.inFlight = true
      ∧ engineSound s ∧ waitingSound s
      ∧ phaseAfter (journalOn s.straps) example6.entries.length s.engine.state = some (.marking 1) :=
  ⟨by decide, rfl, rfl,
    engineSound_of_access (r := ⟨.write, 0x7FD0B#20, 0x0101#16, Lanes.both⟩) (n := 1) (due := false) (by decide)
      (by decide) rfl (by decide),
    Or.inl (noneWaiting_of_no_access fun _ h => (nomatch h)), by decide⟩

theorem witness_JournalLayoutsAndCheckFunction : example6.entries.length < 512 := by decide

theorem witness_RecoveryAcceptsWhatTheEngineWrites :
    journalOn board.straps = true ∧ example6.entries.length + 1 ≤ journalRecords board.straps
      ∧ example6.cell.toNat < journalBase board.straps
      ∧ ∀ e ∈ example6.entries, e.addr.toNat < journalBase board.straps := by decide

/-- The engine in CLEARING over a queue, its last write in progress. -/
def clearing (q : List GroupRecord) (s : State) : State := applying .clearing q false s

theorem witness_RetireOfTheHead :
    let s := clearing [example6, tagOnly] board
    let r : Request := ⟨.write, 0x7FCF8#20, 0#16, Lanes.both⟩
    s.port.access = some ⟨.engine, r, 1, false⟩ ∧ r.kind = .write ∧ s.queue = example6 :: [tagOnly]
      ∧ s.engine.state = .clearing ∧ engineSound s ∧ storeSound s ∧ noneAgain s ∧ noneWaiting s
      ∧ ∀ d, (s.domains.get d).autoPending = false :=
  ⟨by decide, rfl, rfl, rfl, engineSound_of_access (r := ⟨.write, 0x7FCF8#20, 0#16, Lanes.both⟩) (n := 1) (due := false) (by decide) (by decide) rfl
      (by decide), by unfold storeSound; decide, rfl,
    noneWaiting_of_no_access fun _ h => (nomatch h), fun d => by cases d <;> rfl⟩

theorem witness_RetireOfTheHead_waiting :
    let s := withWaitingWrite (clearing [example6, tagOnly] (openBoard 3#16))
    engineSound s ∧ storeSound s ∧ noneAgain s ∧ heldWrite s waitingWrite .i0 0x04B00#20 Lanes.both 7#16
      ∧ domainSound s.straps (s.domains.get .i0) ∧ ∀ d, (s.domains.get d).autoPending = false := by
  refine ⟨engineSound_of_access (r := ⟨.write, 0x7FCF8#20, 0#16, Lanes.both⟩) (n := 1) (due := false) (by decide) (by decide) rfl
      (by decide), by unfold storeSound; decide, rfl,
    heldWrite_intro rfl rfl rfl (Or.inr rfl) rfl rfl rfl (by decide),
    by unfold domainSound addressesDistinct; decide, ?_⟩
  intro d; cases d <;> rfl

/-- A full queue of tag-only groups, domain 1 OPEN with auto-commit pending. -/
def fullBoard : State :=
  { modDomain .i1 (fun x => { x with state := .opened, autoPending := true, group := [⟨0x06001#20, Lanes.both, 1#16⟩] })
      board with queue := List.replicate 32 tagOnly }

/-- The slot freed by a retire from CLEARING. -/
theorem witness_FreedSlotGoesToOneContender :
    let s := applying .clearing (List.replicate 32 tagOnly) false fullBoard
    let c := held (.write 0x04FFF#20 Lanes.both 7#16 none) (.queueSlot .i0 7#16) false s
    (s.port.access = some ⟨.engine, ⟨.write, 0x7FCF8#20, 0#16, Lanes.both⟩, 1, false⟩ ∧ s.queue.length = 32
        ∧ s.engine.state = .clearing ∧ engineSound s ∧ noneAgain s ∧ noneWaiting s
        ∧ (s.domains.get .i1).state = .opened ∧ (s.domains.get .i1).autoPending = true
        ∧ ∀ e : Dom, e.toNat < Ix4.toNat .i1 → (s.domains.get e).autoPending = false)
      ∧ c.host.port = .inProgress ⟨.write 0x04FFF#20 Lanes.both 7#16 none, .queueSlot .i0 7#16, 3, false, false⟩ := by
  refine ⟨⟨by decide, by decide, rfl,
    engineSound_of_access (r := ⟨.write, 0x7FCF8#20, 0#16, Lanes.both⟩) (n := 1) (due := false) (by decide) (by decide) rfl
      (by decide), rfl, noneWaiting_of_no_access fun _ h => (nomatch h), rfl, rfl, ?_⟩, rfl⟩
  intro e; cases e <;> decide

/-- The slot freed by ABANDON_HEAD, and by a retire with the journal off. -/
theorem witness_FreedSlotGoesToOneContender_other :
    let s := engineAt (.faulted .copying 0) fullBoard
    let u := applying (.homing 0) (List.replicate 32 tagOnly) false { fullBoard with straps := ⟨2#2, 0#2, true⟩ }
    (framesSeen s ∧ noneAgain s ∧ s.engine.state = .faulted .copying 0 ∧ engineSound s ∧ s.queue.length = 32)
      ∧ (u.engine.state = .homing tagOnly.entries.length ∧ journalOn u.straps = false ∧ engineSound u
        ∧ u.port.access = some ⟨.engine, ⟨.write, 0x04FFF#20, 1#16, Lanes.both⟩, 1, false⟩ ∧ u.queue.length = 32) :=
  ⟨⟨rfl, rfl, rfl, engineSound_of_no_request (by decide) rfl rfl rfl, by decide⟩,
    rfl, rfl,
    engineSound_of_access (r := ⟨.write, 0x04FFF#20, 1#16, Lanes.both⟩) (n := 1) (due := false) (by decide) (by decide) rfl
      (by decide), by decide, by decide⟩

theorem witness_EngineAccessTimesOut :
    let s := applying (.copying 0 0) [example6] true board
    let r : Request := ⟨.read, 0x7FCF8#20, 0#16, Lanes.both⟩
    let w : Request := ⟨.write, 0x7FCF8#20, 0#16, Lanes.both⟩
    (s.port.access = some ⟨.engine, ⟨.write, 0x7FD00#20, 0x4A00#16, Lanes.both⟩, 1, true⟩ ∧ noneAgain s ∧ noneWaiting s
        ∧ s.engine.state = .copying 0 0)
      ∧ ((applying (.recovering .marker) [] true board).port.access = some ⟨.engine, r, 1, true⟩
        ∧ ∀ p, (applying (.recovering .marker) [] true board).host.port ≠ .inProgress p)
      ∧ (applying (.blocked .check true) [] true board).port.access = some ⟨.engine, w, 1, true⟩ :=
  ⟨⟨by decide, rfl, noneWaiting_of_no_access fun _ h => (nomatch h), rfl⟩, ⟨by decide, fun _ h => (nomatch h)⟩,
    by decide⟩

/-- A staged write held for space, and a commit held for a slot, at a fault. -/
theorem witness_EngineAccessTimesOut_waiting :
    let s := withWaitingWrite (applying .clearing [example6] true (openBoard 3#16))
    let c := setHost (.inProgress waitingCommit) (applying .clearing (List.replicate 32 tagOnly) true
      (modDomain .i0 (fun x => { x with closing := true }) (openBoard 3#16)))
    (storeSound s ∧ domainSound s.straps (s.domains.get .i0)
        ∧ heldWrite s waitingWrite .i0 0x04B00#20 Lanes.both 7#16
        ∧ s.port.access = some ⟨.engine, ⟨.write, 0x7FCF8#20, 0#16, Lanes.both⟩, 1, true⟩)
      ∧ (storeSound c ∧ domainSound c.straps (c.domains.get .i0) ∧ heldCommit c waitingCommit .i0 7#16
        ∧ c.port.access = some ⟨.engine, ⟨.write, 0x7FCF8#20, 0#16, Lanes.both⟩, 1, true⟩) :=
  ⟨⟨by unfold storeSound; decide, by unfold domainSound addressesDistinct; decide,
      heldWrite_intro rfl rfl rfl (Or.inr rfl) rfl rfl rfl (by decide), by decide⟩,
    by unfold storeSound; decide, by unfold domainSound addressesDistinct; decide,
    heldCommit_intro rfl rfl (Or.inr rfl) rfl (by decide) rfl, by decide⟩

theorem witness_RecoveryCourse :
    let h := example6.header
    (((applying (.recovering .marker) [] false board).port.access
          = some ⟨.engine, ⟨.read, 0x7FCF8#20, 0#16, Lanes.both⟩, 1, false⟩
        ∧ (some (0xC3A5#16 : Word)).getD 0#16 = 0xC3A5#16 ∧ (some (0#16 : Word)).getD 0#16 ≠ 0xC3A5#16))
      ∧ ((applying (.recovering (.header (h.take 7))) [] false board).engine.state = .recovering (.header (h.take 7))
        ∧ (h.take 7).length = 7 ∧ headerValid board.straps (h.take 7 ++ [wordAt h 7]) = true
        ∧ headerValid board.straps (h.take 7 ++ [wordAt h 7 ^^^ 1#16]) = false) := by decide +kernel

theorem witness_RecoveryCourse_records :
    let h := example6.header
    let ws := example6.words
    ((ws.take 11).length + 1 = 3 * (wordAt h 3).toNat
        ∧ recordsValid board.straps h (ws.take 11 ++ [0x0101#16]) = true
        ∧ (∀ r ∈ recordsOfWords (ws.take 11 ++ [0x0101#16]), r.lanes.isEmpty = false)
        ∧ recordsValid board.straps h (ws.take 11 ++ [0x0102#16]) = false)
      ∧ ((applying (.recovering (.finish h)) [] false board).port.access
          = some ⟨.engine, ⟨.write, 0x7FCF8#20, 0#16, Lanes.both⟩, 1, false⟩)
      ∧ ((applying (.blocked .check true) [] false board).port.access
          = some ⟨.engine, ⟨.write, 0x7FCF8#20, 0#16, Lanes.both⟩, 1, false⟩) := by decide +kernel

/-- Recovery's reads and home writes that go on: header word 1, record word 1, the first home write, a record passed over. -/
theorem witness_RecoveryCourse_goes_on :
    let h := example6.header
    let none0 : JournalRecord := ⟨0#20, ⟨false, false⟩, 0#16, false⟩
    let r : JournalRecord := ⟨0x04A00#20, Lanes.both, 0x3311#16, false⟩
    engineSound (applying (.recovering (.header [0xC3A5#16])) [] false board)
      ∧ engineSound (applying (.recovering (.records h [])) [] false board)
      ∧ (0 + 1 < 3 * (wordAt h 3).toNat)
      ∧ (applying (.recovering (.replay h [r, none0])) [] false board).port.access
          = some ⟨.engine, ⟨.write, 0x04A00#20, 0x3311#16, Lanes.both⟩, 1, false⟩
      ∧ none0.lanes.isEmpty = true ∧ r.lanes.isEmpty = false :=
  ⟨engineSound_of_access (r := ⟨.read, 0x7FCF9#20, 0#16, Lanes.both⟩) (n := 1) (due := false) (by decide) (by decide) rfl
      (by decide),
    engineSound_of_access (r := ⟨.read, 0x7FD00#20, 0#16, Lanes.both⟩) (n := 1) (due := false) (by decide) (by decide) rfl
      (by decide), by decide +kernel, by decide, rfl, rfl⟩

/-- A host access held through recovery, which goes on, and which ends. -/
theorem witness_RecoveryCourse_held :
    let s := held (.read 0x7FFFF#20) .recovery false (applying (.recovering .marker) [] false board)
    s.engine.state.isRecovering = true ∧ noneAgain s
      ∧ s.host.port = .inProgress ⟨.read 0x7FFFF#20, .recovery, 3, false, false⟩
      ∧ capture s.straps.hpar (rd 0x7FFFF#20) = some (.read 0x7FFFF#20)
      ∧ (∃ u, exec (.arrayAccessComplete (some 0xC3A5#16)) { s with host := { s.host with port := .idle } } = .next u
          ∧ u.engine.state.isRecovering = true)
      ∧ (∃ u, exec (.arrayAccessComplete none) { s with host := { s.host with port := .idle } } = .next u
          ∧ u.engine.state.isRecovering = false) :=
  ⟨rfl, rfl, rfl, rfl, ⟨_, rfl, by decide⟩, ⟨_, rfl, by decide⟩⟩

/-! ### Witnesses: time, power, invariants -/

theorem witness_TickMovesTheCounts :
    let s := access .host ⟨.read, 0#20, 0#16, Lanes.both⟩ false
      (held (.write 0x04B00#20 Lanes.both 7#16 none) (.storeSpace .i0) false (throttled (openBoard 2#16)))
    (false = s.power.low ∨ s.power.last = s.power.low) ∧ (true = s.power.low ∨ s.power.last = s.power.low)
      ∧ ageCounting s .i0 = true ∧ ageCounting s .i1 = false := by decide

/-- Domain 0 OPEN with its age expiry due. -/
def agedBoard (act : AgeAction) : State :=
  modDomain .i0 (fun x => { x with age := 0#16, ageDue := true, ageAction := act }) (openBoard 2#16)

theorem witness_AgeExpiries :
    (noneAgain (agedBoard .notify) ∧ ((agedBoard .notify).domains.get .i0).ageDue = true
        ∧ ((agedBoard .notify).domains.get .i0).ageAction = .notify)
      ∧ (((queued 32 (agedBoard .commit)).domains.get .i0).ageDue = true
        ∧ (queued 32 (agedBoard .commit)).queue.length = 32)
      ∧ (((agedBoard .abandon).domains.get .i0).ageAction = .abandon
        ∧ ((agedBoard .abandon).domains.get .i0).state = .opened ∧ noneWaiting (agedBoard .abandon)
        ∧ storeSound (agedBoard .abandon))
      ∧ (((agedBoard .commit).domains.get .i0).ageAction = .commit ∧ (agedBoard .commit).queue.length < 32
        ∧ noneWaiting (agedBoard .commit) ∧ engineSound (agedBoard .commit)) :=
  ⟨⟨rfl, rfl, rfl⟩, ⟨rfl, by decide⟩,
    ⟨rfl, rfl, noneWaiting_of_no_access fun _ h => (nomatch h), by unfold storeSound; decide⟩,
    ⟨rfl, by decide, noneWaiting_of_no_access fun _ h => (nomatch h),
      engineSound_of_no_request (by decide) rfl rfl rfl⟩⟩

/-- An expiry of the held write's own domain, one of another domain, one with a commit held, and COMMIT with a write held. -/
theorem witness_AgeExpiries_waiting :
    let s := withWaitingWrite (agedBoard .abandon)
    let o := modDomain .i1 (fun x => { x with
      state := .opened, ageDue := true, ageAction := .abandon, group := [⟨0x06001#20, Lanes.both, 1#16⟩] }) s
    let c := modDomain .i1 (fun x => { x with
      state := .opened, ageDue := true, ageAction := .abandon, group := [⟨0x06001#20, Lanes.both, 1#16⟩] })
      (withWaitingCommit (openBoard 2#16))
    let k := withWaitingWrite (agedBoard .commit)
    (storeSound s ∧ heldWrite s waitingWrite .i0 0x04B00#20 Lanes.both 7#16 ∧ domainSound s.straps (s.domains.get .i0))
      ∧ (storeSound o ∧ heldWrite o waitingWrite .i0 0x04B00#20 Lanes.both 7#16
        ∧ (o.domains.get .i1).ageDue = true ∧ (o.domains.get .i1).ageAction = .abandon)
      ∧ (storeSound c ∧ heldCommit c waitingCommit .i0 7#16 ∧ c.engine.state.stopped = false
        ∧ (c.domains.get .i1).state = .opened)
      ∧ (heldWrite k waitingWrite .i0 0x04B00#20 Lanes.both 7#16 ∧ k.engine.state.stopped = false ∧ k.queue.length < 32
        ∧ engineSound k) :=
  ⟨⟨by unfold storeSound; decide, waitingWrite_held (Or.inr rfl) rfl (by decide),
      by unfold domainSound addressesDistinct; decide⟩,
    ⟨by unfold storeSound; decide, heldWrite_intro rfl rfl rfl (Or.inr rfl) rfl rfl rfl (by decide), rfl, rfl⟩,
    ⟨by unfold storeSound; decide, heldCommit_intro rfl rfl (Or.inr rfl) rfl (by decide) rfl, rfl, rfl⟩,
    ⟨waitingWrite_held (Or.inr rfl) rfl (by decide), rfl, by decide,
      engineSound_of_no_request (by decide) rfl rfl rfl⟩⟩

/-- The state after the counts of a tick, with no domain and no access to count for. -/
def ticked (s : State) : State := { s with power := { s.power with last := s.power.low, previous := s.power.last } }

theorem witness_PowerFilterAndReturn :
    let s := { queued 1 board with power := ⟨true, false, true⟩ }
    s.power.low = true ∧ s.power.last = false
      ∧ exec (.tick true []) s = .next (ticked s)
      ∧ noneWaiting ([Expiry.age .i0, .hold].foldl takeExpiry (ticked s)) :=
  ⟨rfl, rfl, rfl, noneWaiting_of_no_access fun _ h => (nomatch h)⟩

theorem witness_PowerLowEntry :
    let s := held (.write 0x04FFF#20 Lanes.both 7#16 none) (.queueSlot .i0 7#16) false
      { openBoard 2#16 with power := ⟨false, true, false⟩ }
    s.power.low = false ∧ s.power.last = true
      ∧ ∃ w, exec (.tick false []) s = .next w
        ∧ (∀ v, v = [Expiry.age .i0].foldl takeExpiry w →
          noneAgain v ∧ (∀ d, domainSound v.straps (v.domains.get d)) ∧ storeSound v
            ∧ v.host.port = .inProgress ⟨.write 0x04FFF#20 Lanes.both 7#16 none, .queueSlot .i0 7#16, 4, false, false⟩) := by
  refine ⟨rfl, rfl, _, rfl, ?_⟩
  rintro v rfl
  refine ⟨by unfold noneAgain; decide, domains_sound ?_ ?_ ?_ ?_, by unfold storeSound; decide, by decide⟩ <;>
    (unfold domainSound addressesDistinct; decide)

/-- The open board with the engine homing under a VALID journal word, and a command waiting: every premise of the
invariants' statements at once. -/
def homingBoard : State :=
  { applying (.homing 0) [example6] false (openBoard 255#16) with
    array := Memory.store [] 0x7FCF8#20 Lanes.both 0xC3A5#16
    pending := [.arrayAccessComplete none]
    host := { board.host with port := .inProgress ⟨.write 0x04FFF#20 Lanes.both 0x0101#16 none, .sync .i0, 3, false, false⟩ } }

theorem witness_StepsKeepTheInvariants :
    arrayCanonical homingBoard ∧ queueBounded homingBoard ∧ limitsSound homingBoard ∧ storeSound homingBoard
      ∧ engineSound homingBoard ∧ homingHasValidJournal homingBoard ∧ ∃ t, step homingBoard = .next t :=
  ⟨by unfold arrayCanonical; decide, by unfold queueBounded; decide, by unfold limitsSound; decide,
    by unfold storeSound; decide, engineSound_of_access (r := ⟨.write, 0x04A00#20, 0x3311#16, Lanes.both⟩) (n := 1) (due := false) (by decide) (by decide) rfl (by decide),
    ⟨fun _ _ => by decide, fun _ _ h => (nomatch h)⟩,
    ⟨_, rfl⟩⟩

theorem witness_StepsKeepTheInvariants_domains : domainsSound homingBoard := by
  refine ⟨?_, ?_, by decide, by decide⟩
  · refine domains_sound ?_ ?_ ?_ ?_ <;> (unfold domainSound addressesDistinct; decide)
  · unfold addressesDistinct; decide

theorem witness_StepsKeepTheInvariants_recovery :
    recoverySound homingBoard
      ∧ recoverySound (engineAt (.recovering (.records example6.header (example6.words.take 11))) board) := by
  refine ⟨⟨by decide, by decide, fun _ h => (nomatch h)⟩, by decide, by decide, ?_⟩
  intro r h
  cases h
  exact ⟨by decide, by decide +kernel, by decide +kernel, by decide +kernel⟩

theorem witness_StepsKeepTheInvariants_host : hostSound homingBoard ∧ cellsDistinct homingBoard := by
  refine ⟨⟨?_, fun _ h => (nomatch h), by decide, by decide⟩, ?_⟩
  · intro p hp
    cases hp
    exact ⟨example6, by decide, rfl, rfl⟩
  · intro d e; cases d <;> cases e <;> decide

theorem witness_StepsKeepTheInvariants_addresses : addressesSound homingBoard := by
  refine ⟨?_, ?_, by decide, ?_, ?_, ?_, ?_⟩
  · intro d; cases d <;> decide
  · intro d; cases d <;> decide
  · intro p d a l w hdp hp hh; cases hp; cases hh
  · intro r h; cases h
  · intro r h; cases h
  · intro a h hr; cases h; exact absurd rfl hr

end Sys2Proof.Tests
end

section
/-! PROOFS. What one event can do to the parts of the state that hold addresses: the domains' groups and cells, the queue,
the access in progress and the requests of the array port. `Move` lists the elementary changes, each with the condition
under which the model makes it; every shared operation is a chain of them (`Moves`). An invariant over addresses, cells or
held accesses is then a case split over the moves and not over the operations. -/

namespace Sys2Proof.Machine

/-! ### The requests at the array port -/

/-- The request that a requester has waiting. -/
def Port.waiting (p : Port) : Requester → Option Request
  | .host => p.hostReq
  | .engine => p.engineReq
  | .mgmt => p.mgmtReq

/-- A requester has a request at the port, waiting or in progress (R134). -/
def Port.holds (p : Port) (who : Requester) (r : Request) : Prop :=
  (∃ a, p.access = some a ∧ a.requester = who ∧ a.request = r) ∨ p.waiting who = some r

/-- An access that begins is the one that its requester had waiting; the others wait as before, or no more. -/
theorem Port.holds_of_grant {p p' : Port} {who w : Requester} {q r : Request} (hq : p.waiting who = some q)
    (hp : p'.waiting w = p.waiting w ∨ p'.waiting w = none) (h : (p'.begin who q).holds w r) : p.holds w r := by
  have hw : (p'.begin who q).waiting w = p'.waiting w := by cases w <;> rfl
  obtain ⟨a, ha, rfl, rfl⟩ | h := h
  · cases ha
    exact .inr hq
  · rw [hw] at h
    obtain hp | hp := hp
    · exact .inr (hp.symm.trans h)
    · exact nomatch hp.symm.trans h

/-- An arbitration brings no request to the port (R135). -/
theorem Port.holds_of_arbitrate {p : Port} {w : Requester} {r : Request} (h : p.arbitrate.holds w r) :
    p.holds w r := by
  unfold Port.arbitrate at h
  split at h
  · next hh he =>
    split at h
    · exact Port.holds_of_grant (who := .host) hh (by cases w <;> simp [Port.waiting]) h
    · exact Port.holds_of_grant (who := .engine) he (by cases w <;> simp [Port.waiting]) h
  · next hh _ => exact Port.holds_of_grant (who := .host) hh (by cases w <;> simp [Port.waiting]) h
  · next _ he => exact Port.holds_of_grant (who := .engine) he (by cases w <;> simp [Port.waiting]) h
  · next _ _ hm => exact Port.holds_of_grant (who := .mgmt) hm (by cases w <;> simp [Port.waiting]) h
  · exact h.imp_right fun h => by cases w <;> exact h

/-- The end of an access brings no request to the port. -/
theorem Port.holds_of_finish {p : Port} {w : Requester} {r : Request} (h : p.finish.holds w r) : p.holds w r := by
  obtain ⟨a, ha, _⟩ | h := Port.holds_of_arbitrate h
  · exact nomatch ha
  · exact .inr (by cases w <;> exact h)

/-- A request that joins those waiting is the one request that is new. -/
theorem Port.holds_of_wait {p : Port} {who w : Requester} {q r : Request} (h : (p.wait who q).holds w r) :
    p.holds w r ∨ (w = who ∧ r = q) := by
  obtain ⟨a, ha, hw, hr⟩ | h := h
  · exact .inl (.inl ⟨a, by cases who <;> exact ha, hw, hr⟩)
  · by_cases hw : w = who
    · subst hw
      have hq : (p.wait w q).waiting w = some q := by cases w <;> rfl
      exact .inr ⟨rfl, Option.some.inj (h.symm.trans hq)⟩
    · exact .inl (.inr (by cases who <;> cases w <;> first | exact h | exact absurd rfl hw))

theorem Port.holds_of_post {p : Port} {who w : Requester} {q r : Request} (h : (p.post who q).holds w r) :
    p.holds w r ∨ (w = who ∧ r = q) := by
  unfold Port.post at h
  split at h
  · exact Port.holds_of_wait h
  · exact Port.holds_of_wait (Port.holds_of_arbitrate h)

/-! ### The moves -/

/-- A hold that an examination can end: for store space (R53) or for a queue slot (R28). -/
def Hold.waits : Hold → Bool
  | .storeSpace _ => true
  | .queueSlot _ _ => true
  | _ => false

/-- What an event may change of a domain without a new entry or a commit: entries change their lanes and data or go, no
address comes; the cell and the enable option stay; an expiry becomes due in an enabled domain alone. -/
structure DomainMove (x y : Domain) : Prop where
  cell : y.cell = x.cell
  enabled : y.enabled = x.enabled
  group : ∀ e ∈ y.group, ∃ e' ∈ x.group, e'.addr = e.addr
  ageDue : y.ageDue = true → x.ageDue = true ∨ x.enabled = true

/-- Domain d may take a write of an address: the class of the access says so, or the access waits for space. -/
def takesAt (s : State) (d : Dom) (a : Addr) : Prop :=
  ((s.domains.get d).enabled = true ∧ a.toNat < journalBase s.straps)
    ∨ ∃ p l w hdp, s.host.port = .inProgress p ∧ p.hold = .storeSpace d ∧ p.access = .write a l w hdp

/-- Domain d's group may be queued: the domain is enabled, or its commit waits for a slot, or its age expiry is due. -/
def mayQueue (s : State) (d : Dom) : Prop :=
  (s.domains.get d).enabled = true
    ∨ (∃ p tag, s.host.port = .inProgress p ∧ p.hold = .queueSlot d tag)
    ∨ (s.domains.get d).ageDue = true

/-- The elementary changes that events make. -/
inductive Move : State → State → Prop
  /-- Settings, counts, flags and the engine's state hold no address. -/
  | note {s t : State} (straps : t.straps = s.straps) (domains : t.domains = s.domains) (queue : t.queue = s.queue)
      (port : t.port = s.port) (hostPort : t.host.port = s.host.port) : Move s t
  | domains {s : State} (v : Four Domain) (h : ∀ d, DomainMove (s.domains.get d) (v.get d)) :
      Move s { s with domains := v }
  /-- The Host Port moves; an access that waits has waited before for the same. -/
  | hostPort {s : State} (p : HostPort)
      (h : ∀ q, p = .inProgress q → q.hold.waits = true →
        ∃ q', s.host.port = .inProgress q' ∧ q'.hold = q.hold ∧ q'.access = q.access) :
      Move s (setHost p s)
  /-- A staged write begins to wait for space. -/
  | waitSpace {s : State} {p : Progress} {d : Dom} {a : Addr} {l : Lanes} {w : Word} {hdp : Option (BitVec 2)}
      (access : p.access = .write a l w hdp) (hold : p.hold = .storeSpace d)
      (enabled : (s.domains.get d).enabled = true) (below : a.toNat < journalBase s.straps) :
      Move s (setHost (.inProgress p) s)
  /-- A commit begins to wait for a slot. -/
  | waitSlot {s : State} {p : Progress} {d : Dom} {tag : Word} (hold : p.hold = .queueSlot d tag)
      (enabled : (s.domains.get d).enabled = true) : Move s (setHost (.inProgress p) s)
  /-- A staged write is taken into a new entry. -/
  | take {s : State} {d : Dom} {e : Entry} (h : takesAt s d e.addr) :
      Move s (modDomain d (fun x => { x with state := .opened, group := x.group ++ [e] }) s)
  /-- A group is queued. -/
  | queueGroup {s : State} {d : Dom} (tag : Word) (sync : Bool) (h : mayQueue s d) : Move s (queueGroup d tag sync s)
  /-- Groups leave the queue. -/
  | queue {s : State} (q : List GroupRecord)
      (h : ∀ g ∈ q, ∃ g' ∈ s.queue, g'.cell = g.cell ∧ g'.entries = g.entries) : Move s { s with queue := q }
  /-- The array port moves; a request of the host or of the diagnostic read that is new writes below the base alone. -/
  | port {s : State} (p : Port)
      (h : ∀ w r, w ≠ .engine → p.holds w r → s.port.holds w r ∨ writesBelowBase s.straps r) :
      Move s { s with port := p }

/-- A chain of moves. -/
def Moves : State → State → Prop := Relation.ReflTransGen Move

theorem Moves.refl (s : State) : Moves s s := Relation.ReflTransGen.refl

/-- A predicate that each move keeps is kept by every chain of moves. -/
theorem Moves.keep {P : State → Prop} (hP : ∀ s t, Move s t → P s → P t) {s t : State} (h : Moves s t) (hs : P s) :
    P t := by
  induction h with
  | refl => exact hs
  | tail _ hm ih => exact hP _ _ hm ih

/-! ### Chains of moves through the plain updates -/

section Updates

variable {s t : State}

theorem Moves.note {u : State} (h : Moves s t) (straps : u.straps = t.straps) (domains : u.domains = t.domains)
    (queue : u.queue = t.queue) (port : u.port = t.port) (hostPort : u.host.port = t.host.port) : Moves s u :=
  h.tail (.note straps domains queue port hostPort)

theorem Moves.setFlag (f : FlagId) (h : Moves s t) : Moves s (setFlag f t) := h.note rfl rfl rfl rfl rfl

theorem Moves.bump (c : CounterId) (h : Moves s t) : Moves s (bump c t) := h.note rfl rfl rfl rfl rfl

theorem Moves.setEngine (e : EngineState) (h : Moves s t) : Moves s (setEngine e t) := h.note rfl rfl rfl rfl rfl

theorem Domain.enabled_iff (x : Domain) : x.enabled = true ↔ x.state ≠ .off := by
  cases h : x.state <;> simp [Domain.enabled, h]

theorem enabled_of_opened {x : Domain} (h : x.state = .opened) : x.enabled = true :=
  x.enabled_iff.mpr (by rw [h]; nofun)

theorem enabled_eq_of_ne_off {x y : Domain} (hx : x.state ≠ .off) (hy : y.state ≠ .off) : y.enabled = x.enabled :=
  (y.enabled_iff.mpr hy).trans (x.enabled_iff.mpr hx).symm

theorem DomainMove.refl (x : Domain) : DomainMove x x := ⟨rfl, rfl, fun e he => ⟨e, he, rfl⟩, .inl⟩

/-- A domain that gives up its group and its due expiry, and stays enabled or not. -/
theorem DomainMove.emptied {x y : Domain} (cell : y.cell = x.cell) (enabled : y.enabled = x.enabled)
    (group : y.group = []) (ageDue : y.ageDue = false) : DomainMove x y :=
  ⟨cell, enabled, by simp [group], by simp [ageDue]⟩

/-- A domain whose group, cell and state stay, with no expiry newly due. -/
theorem DomainMove.settings {x y : Domain} (cell : y.cell = x.cell) (state : y.state = x.state)
    (group : y.group = x.group) (ageDue : y.ageDue = true → x.ageDue = true) : DomainMove x y :=
  ⟨cell, by rw [Domain.enabled, Domain.enabled, state], by rw [group]; exact fun e he => ⟨e, he, rfl⟩,
    fun h => .inl (ageDue h)⟩

theorem Moves.domains (h : Moves s t) (v : Four Domain) (hv : ∀ d, DomainMove (t.domains.get d) (v.get d)) :
    Moves s { t with domains := v } := h.tail (.domains v hv)

theorem Moves.modDomain {d : Dom} {f : Domain → Domain} (h : Moves s t)
    (hf : DomainMove (t.domains.get d) (f (t.domains.get d))) : Moves s (modDomain d f t) := by
  refine h.domains _ fun e => ?_
  rw [Four.get_set]
  split
  · next he => rw [he]; exact hf
  · exact .refl _

theorem Moves.queue (h : Moves s t) (q : List GroupRecord)
    (hq : ∀ g ∈ q, ∃ g' ∈ t.queue, g'.cell = g.cell ∧ g'.entries = g.entries) : Moves s { t with queue := q } :=
  h.tail (.queue q hq)

/-- Groups of the queue go; those that stay are as they were. -/
theorem Moves.subqueue (h : Moves s t) (q : List GroupRecord) (hq : q ⊆ t.queue) : Moves s { t with queue := q } :=
  h.queue q fun g hg => ⟨g, hq hg, rfl, rfl⟩

theorem Moves.clearSyncFlags (h : Moves s t) : Moves s (clearSyncFlags t) := by
  refine h.queue _ fun g hg => ?_
  obtain ⟨g', hg', rfl⟩ := List.mem_map.mp hg
  exact ⟨g', hg', rfl, rfl⟩

theorem Moves.port (h : Moves s t) (p : Port) (hp : ∀ w r, w ≠ .engine → p.holds w r → t.port.holds w r) :
    Moves s { t with port := p } := h.tail (.port p fun w r hw hr => .inl (hp w r hw hr))

theorem Moves.finishPort (h : Moves s t) : Moves s { t with port := t.port.finish } :=
  h.port _ fun _ _ _ => Port.holds_of_finish

theorem Moves.postRequest {who : Requester} {r : Request} (h : Moves s t)
    (hr : who ≠ .engine → writesBelowBase t.straps r) : Moves s (postRequest who r t) := by
  refine h.tail (.port _ fun w q hw hq => ?_)
  obtain hq | ⟨rfl, rfl⟩ := Port.holds_of_post hq
  · exact .inl hq
  · exact .inr (hr hw)

theorem writesBelowBase_readRequest (st : Straps) (a : Addr) : writesBelowBase st (readRequest a) := nofun

theorem Moves.requestEngine (h : Moves s t) : Moves s (requestEngine t) := by
  unfold Machine.requestEngine
  split
  · exact h.postRequest fun hne => absurd rfl hne
  · exact h

/-- The access in progress ends. -/
theorem Moves.hostDone {p : HostPort} (h : Moves s t) (hp : ∀ q, p ≠ .inProgress q) : Moves s (setHost p t) :=
  h.tail (.hostPort p fun q hq => absurd hq (hp q))

/-- An access is in progress under a hold that no examination ends. -/
theorem Moves.hostHeld {p : Progress} (h : Moves s t) (hp : p.hold.waits = false) :
    Moves s (setHost (.inProgress p) t) := by
  refine h.tail (.hostPort _ fun q hq hw => ?_)
  cases hq
  rw [hp] at hw
  cases hw

/-- The access in progress goes on under the hold that it has. -/
theorem Moves.hostGoesOn {p q : Progress} (h : Moves s t) (hp : t.host.port = .inProgress p) (hold : q.hold = p.hold)
    (access : q.access = p.access) : Moves s (setHost (.inProgress q) t) := by
  refine h.tail (.hostPort _ fun q' hq _ => ?_)
  cases hq
  exact ⟨p, hp, hold.symm, access.symm⟩

theorem Moves.setHold {k : Hold} (h : Moves s t) (hk : k.waits = false) : Moves s (setHold k t) := by
  unfold Machine.setHold
  split
  · exact h.hostHeld hk
  · exact h

theorem quietEnd_ne_inProgress (b : Bool) (q : Progress) : (if b then HostPort.idle else .ending) ≠ .inProgress q := by
  cases b <;> nofun

theorem readEnd_ne_inProgress (b : Bool) (w : Word) (q : Progress) :
    (if b then HostPort.idle else .driving w) ≠ .inProgress q := by
  cases b <;> nofun

theorem Moves.completeQuiet (h : Moves s t) : Moves s (completeQuiet t) := by
  unfold Machine.completeQuiet
  split
  · exact h.hostDone (quietEnd_ne_inProgress _)
  · exact h

theorem Moves.completeRead (w : Word) (h : Moves s t) : Moves s (completeRead w t) := by
  unfold Machine.completeRead
  split
  · exact h.hostDone (readEnd_ne_inProgress _ w)
  · exact h

theorem Moves.dropWrite (c : DropCause) (h : Moves s t) : Moves s (dropWrite c t) := by
  have hc : Moves s { t with host := { t.host with dropcause := c } } := h.note rfl rfl rfl rfl rfl
  exact ((hc.bump .writesDropped).setFlag .dropped).completeQuiet

/-! ### Groups -/

theorem Moves.loadAge (d : Dom) (h : Moves s t) : Moves s (loadAge d t) := by
  unfold Machine.loadAge
  split
  · exact h
  · exact h.modDomain (.settings rfl rfl rfl nofun)

theorem Moves.flowAfterTake (h : Moves s t) : Moves s (flowAfterTake t) := by
  unfold Machine.flowAfterTake
  split
  · exact h.note rfl rfl rfl rfl rfl
  · exact h

theorem Moves.flowAfterRelease (n : Nat) (h : Moves s t) : Moves s (flowAfterRelease n t) := by
  unfold Machine.flowAfterRelease
  split
  · exact h.note rfl rfl rfl rfl rfl
  · exact h

theorem Moves.flowRetest (h : Moves s t) : Moves s (flowRetest t) := by
  unfold Machine.flowRetest
  split
  · exact h.flowAfterTake
  · split
    · exact h.note rfl rfl rfl rfl rfl
    · exact h

/-- A break takes the entries of an enabled domain, which stays enabled (R31). -/
theorem domainMove_broke (c : BreakCause) {x : Domain} (h : x.state ≠ .off) : DomainMove x (x.broke c) :=
  .emptied rfl (enabled_eq_of_ne_off h nofun) rfl rfl

theorem Moves.breakCore (d : Dom) (c : BreakCause) (h : Moves s t) : Moves s (breakCore d c t) := by
  unfold Machine.breakCore
  split
  · next hd => exact ((h.modDomain (domainMove_broke c (by simp [hd]))).bump _).setFlag _
  · next hd => exact ((h.modDomain (domainMove_broke c (by simp [hd]))).bump _).setFlag _
  · exact h
  · exact h

theorem Moves.breakDomain (d : Dom) (c : BreakCause) (h : Moves s t) : Moves s (breakDomain d c t) :=
  (h.breakCore d c).flowAfterRelease _

theorem Moves.breakIfOpen (c : BreakCause) (d : Dom) (h : Moves s t) : Moves s (breakIfOpen c t d) := by
  unfold Machine.breakIfOpen
  split
  · exact h.breakCore d c
  · exact h

theorem Moves.breakAll (c : BreakCause) (h : Moves s t) : Moves s (breakAll c t) :=
  (((h.breakIfOpen c .i0).breakIfOpen c .i1).breakIfOpen c .i2).breakIfOpen c .i3

theorem domainMove_acknowledge (x : Domain) : DomainMove x x.acknowledge := by
  unfold Domain.acknowledge
  split
  · next h => exact ⟨rfl, enabled_eq_of_ne_off (by rw [h]; nofun) nofun, fun e he => ⟨e, he, rfl⟩, .inl⟩
  · exact .refl x

theorem Moves.commitToBroken (d : Dom) (h : Moves s t) : Moves s (commitToBroken d t) :=
  (h.modDomain (domainMove_acknowledge _)).dropWrite _

theorem Moves.queueGroup {d : Dom} (tag : Word) (b : Bool) (h : Moves s t) (hd : mayQueue t d) :
    Moves s (queueGroup d tag b t) := h.tail (.queueGroup tag b hd)

theorem Moves.beginHead (h : Moves s t) : Moves s (beginHead t) := (h.setEngine _).requestEngine

theorem Moves.tryBegin (h : Moves s t) : Moves s (tryBegin t) := by
  unfold Machine.tryBegin
  split
  · exact h.beginHead
  · exact h

theorem Moves.completeSync (h : Moves s t) : Moves s (completeSync t) := by
  unfold Machine.completeSync
  split
  · exact h.completeQuiet
  · exact h

theorem Moves.commitQueued {d : Dom} (tag : Word) (h : Moves s t) (hd : mayQueue t d) :
    Moves s (commitQueued d tag t) := by
  unfold Machine.commitQueued
  split
  · exact (h.queueGroup tag true hd).setHold rfl
  · exact (h.queueGroup tag false hd).completeQuiet

/-- What an access held for a reason shows of the Host Port. -/
theorem heldFor_eq_some {k : Hold} (h : heldFor t = some k) : ∃ p, t.host.port = .inProgress p ∧ p.hold = k := by
  unfold heldFor at h
  split at h
  · next p hp => exact ⟨p, hp, Option.some.inj h⟩
  · cases h

theorem Moves.grantCommit (h : Moves s t) : Moves s (grantCommit t) := by
  unfold Machine.grantCommit
  split
  · next d tag hk =>
    obtain ⟨p, hp, hk⟩ := heldFor_eq_some hk
    split
    · exact h.commitQueued tag (.inr (.inl ⟨p, tag, hp, hk⟩))
    · exact h
  · exact h

theorem Moves.grantPending (d : Dom) (h : Moves s t) : Moves s (grantPending t d) := by
  unfold Machine.grantPending
  split
  · next hd => exact h.queueGroup _ false (.inl (enabled_of_opened hd.1))
  · exact h

theorem Moves.grantSlots (h : Moves s t) : Moves s (grantSlots t) :=
  (((h.grantCommit.grantPending .i0).grantPending .i1).grantPending .i2).grantPending .i3

theorem Moves.reloadIfIdle (d : Dom) (h : Moves s t) : Moves s (reloadIfIdle d t) := by
  unfold Machine.reloadIfIdle
  split
  · exact h.loadAge d
  · exact h

/-- A coalescing write leaves the addresses of the group (R46). -/
theorem domainMove_coalesce (x : Domain) (a : Addr) (l : Lanes) (w : Word) :
    DomainMove x { x with group := coalesceInto x.group a l w } := by
  refine ⟨rfl, rfl, fun e he => ?_, .inl⟩
  obtain ⟨e', he', rfl⟩ := List.mem_map.mp he
  refine ⟨e', he', ?_⟩
  split <;> rfl

theorem Moves.takeCoalesce (d : Dom) (a : Addr) (l : Lanes) (w : Word) (h : Moves s t) :
    Moves s (takeCoalesce d a l w t) :=
  (((h.modDomain (domainMove_coalesce _ a l w)).bump _).reloadIfIdle d).completeQuiet

theorem Moves.takeNew {d : Dom} {a : Addr} (l : Lanes) (w : Word) (h : Moves s t) (ha : takesAt t d a) :
    Moves s (takeNew d a l w t) := by
  have h1 := Moves.bump .writesStaged (h.tail (Move.take (e := newEntry a l w) ha))
  unfold Machine.takeNew
  dsimp only
  split
  · exact (h1.reloadIfIdle d).flowAfterTake.completeQuiet
  · exact (h1.loadAge d).flowAfterTake.completeQuiet

theorem Moves.placeNow {d : Dom} {a : Addr} (l : Lanes) (w : Word) (h : Moves s t) (ha : takesAt t d a) :
    Moves s (placeNow d a l w t) := by
  unfold Machine.placeNow
  split
  · exact h.takeCoalesce d a l w
  · split
    · exact (h.breakDomain d .ceiling).dropWrite .broken
    · exact h.takeNew l w ha

/-! ### Examinations -/

theorem Moves.examineWrite {d : Dom} {a : Addr} (x : Bool) (l : Lanes) (w : Word) (h : Moves s t)
    (ha : takesAt t d a) : Moves s (examineWrite x d a l w t) := by
  unfold Machine.examineWrite
  split
  · exact h.dropWrite _
  · split
    · exact h.dropWrite .power
    · split
      · exact h.placeNow l w ha
      · split
        · exact ((h.breakDomain d .hold).setFlag .hold).dropWrite .broken
        · split
          · exact h
          · exact (h.breakDomain d .storeFull).dropWrite .broken

theorem Moves.examineCommit {d : Dom} (x : Bool) (tag : Word) (h : Moves s t) (hd : mayQueue t d) :
    Moves s (examineCommit x d tag t) := by
  unfold Machine.examineCommit
  split
  · exact (h.commitQueued tag hd).tryBegin
  · split
    · exact ((h.breakDomain d .hold).setFlag .hold).commitToBroken d
    · split
      · exact h
      · exact (h.breakDomain d .queueFull).commitToBroken d

theorem Moves.examine (x : Bool) (h : Moves s t) : Moves s (examine x t) := by
  unfold Machine.examine
  split
  · next p hp =>
    split
    · next d a l w hdp hk ha => exact h.examineWrite x l w (.inr ⟨p, l, w, hdp, hp, hk, ha⟩)
    · next d tag hk => exact h.examineCommit x tag (.inr (.inl ⟨p, tag, hp, hk⟩))
    · exact h
  · exact h

theorem Moves.beginAndExamine (h : Moves s t) : Moves s (beginAndExamine t) := by
  unfold Machine.beginAndExamine
  split
  · exact h.beginHead.examine false
  · exact h

end Updates

end Sys2Proof.Machine
end

section
/-! PROOFS. The Host Port's, the engine's and the time's operations as chains of moves, so that every event is one. -/

namespace Sys2Proof.Machine

/-! ### Classification -/

theorem journalBase_le_arrayWords (st : Straps) : journalBase st ≤ arrayWords st := Nat.sub_le _ _

theorem enabled_of_commitCellOf {s : State} {a : Addr} {d : Dom} (h : commitCellOf s a = some d) :
    (s.domains.get d).enabled = true ∧ (s.domains.get d).cell = a := by
  simpa using List.find?_some h

/-- A class of the tables is that of an address below the journal base (R4). -/
theorem below_of_classify {s : State} {a : Addr} (hc : ∀ d, classify s a ≠ .commitCell d) (ho : classify s a ≠ .outside)
    (hr : classify s a ≠ .reserved) : a.toNat < journalBase s.straps := by
  by_contra h
  unfold classify at hc ho hr
  split at ho
  · next d hd => exact hc d (by rw [hd])
  · next hd =>
    split at ho
    · exact ho rfl
    · next hw => simp only [hd, if_neg hw, if_pos (Nat.le_of_not_lt h)] at hr; exact hr rfl

theorem enabled_of_classify {s : State} {a : Addr} {d : Dom} (h : classify s a = .commitCell d) :
    (s.domains.get d).enabled = true := by
  unfold classify at h
  split at h
  · next d' hd =>
    cases h
    exact (enabled_of_commitCellOf hd).1
  · next hd =>
    exfalso
    revert h
    unfold tableClass Window.cls Classifier.hashClass Classifier.defaultClass
    repeat' split
    all_goals nofun

/-- A write that no cause drops is staged for an enabled domain alone (R9). -/
theorem enabled_of_not_dropped {s : State} {d : Dom} (h : classDropCause s (.stage d) = none) :
    (s.domains.get d).enabled = true := by
  unfold classDropCause at h
  split at h
  · cases h
  · split at h
    · cases h
    · split at h <;> simp_all

/-! ### Chains of moves through the Host Port's operations -/

section Updates

variable {s t : State}

theorem Moves.holdForRead {k : Hold} (a : Addr) (h : Moves s t) (hk : k.waits = false) :
    Moves s (holdForRead k a t) :=
  (h.setHold hk).postRequest fun _ => writesBelowBase_readRequest _ a

theorem Moves.stagedRead (d : Dom) (a : Addr) (h : Moves s t) : Moves s (stagedRead d a t) := by
  unfold Machine.stagedRead
  split
  · exact (h.bump .forwardHits).completeRead _
  · exact h.holdForRead a rfl

theorem Moves.classifiedRead (c : Class) (a : Addr) (h : Moves s t) : Moves s (classifiedRead c a t) := by
  cases c with
  | outside => exact h.completeRead _
  | reserved => exact h.completeRead _
  | stage d =>
    unfold Machine.classifiedRead
    dsimp only
    split
    · exact h.stagedRead d a
    · exact h.holdForRead a rfl
  | commitCell d => exact h.holdForRead a rfl
  | pass => exact h.holdForRead a rfl
  | deny => exact h.holdForRead a rfl

theorem Moves.dropParity (h : Moves s t) : Moves s (dropParity t) := (h.setFlag .parity).dropWrite .parity

/-- A staged write's access begins to wait for space. -/
theorem Moves.setHold_storeSpace {d : Dom} {a : Addr} {l : Lanes} {w : Word} {hdp : Option (BitVec 2)} (h : Moves s t)
    (hacc : ∀ p, t.host.port = .inProgress p → p.access = .write a l w hdp)
    (hd : (t.domains.get d).enabled = true) (ha : a.toNat < journalBase t.straps) :
    Moves s (Machine.setHold (.storeSpace d) t) := by
  unfold Machine.setHold
  split
  · next p hp => exact h.tail (.waitSpace (hacc p hp) rfl hd ha)
  · exact h

theorem Moves.stagedWrite {d : Dom} {a : Addr} {l : Lanes} {w : Word} {hdp : Option (BitVec 2)} (bad : Bool)
    (h : Moves s t) (hacc : ∀ p, t.host.port = .inProgress p → p.access = .write a l w hdp)
    (hd : (t.domains.get d).enabled = true) (ha : a.toNat < journalBase t.straps) :
    Moves s (stagedWrite d a l w bad t) := by
  unfold Machine.stagedWrite
  split
  · exact (h.breakDomain d .parity).dropParity
  · split
    · exact h.dropWrite .broken
    · split
      · exact h.placeNow l w (.inl ⟨hd, ha⟩)
      · exact (h.setHold_storeSpace hacc hd ha).examine false

theorem domainMove_aborted (x : Domain) : DomainMove x x.aborted := by
  unfold Domain.aborted
  split
  · next h => exact .emptied rfl (enabled_eq_of_ne_off (by rw [h]; nofun) nofun) rfl rfl
  · next h => exact ⟨rfl, enabled_eq_of_ne_off (by rw [h]; nofun) nofun, fun e he => ⟨e, he, rfl⟩, .inl⟩
  · exact .refl x
  · exact .refl x

theorem Moves.abortGroup (d : Dom) (h : Moves s t) : Moves s (abortGroup d t) :=
  ((h.modDomain (domainMove_aborted _)).flowAfterRelease _).completeQuiet

theorem Moves.setHold_queueSlot {d : Dom} (tag : Word) (h : Moves s t) (hd : (t.domains.get d).enabled = true) :
    Moves s (Machine.setHold (.queueSlot d tag) t) := by
  unfold Machine.setHold
  split
  · exact h.tail (.waitSlot rfl hd)
  · exact h

theorem Moves.holdCommit {d : Dom} (tag : Word) (h : Moves s t) (hd : (t.domains.get d).enabled = true) :
    Moves s (holdCommit d tag t) := by
  have h1 : Moves s (Machine.modDomain d (fun x => { x with closing := true, autoPending := false, ageDue := false }) t) :=
    h.modDomain (.settings rfl rfl rfl (by simp))
  exact (h1.setHold_queueSlot tag (by rw [modDomain_get_same]; exact hd)).examine false

theorem Moves.commitGroup {d : Dom} (tag : Word) (h : Moves s t) (hd : (t.domains.get d).enabled = true) :
    Moves s (commitGroup d tag t) := by
  unfold Machine.commitGroup
  split
  · exact h.commitToBroken d
  · split
    · exact (h.commitQueued tag (.inl hd)).tryBegin
    · exact h.holdCommit tag hd

theorem Moves.commitCellWrite {d : Dom} (l : Lanes) (w : Word) (bad : Bool) (h : Moves s t)
    (hd : (t.domains.get d).enabled = true) : Moves s (commitCellWrite d l w bad t) := by
  unfold Machine.commitCellWrite
  split
  · split
    · exact (h.breakDomain d .format).dropWrite .format
    · exact h.dropWrite .format
  · split
    · exact (h.breakDomain d .parity).dropParity
    · split
      · exact h.abortGroup d
      · exact h.commitGroup w hd

theorem Moves.passWrite {a : Addr} (l : Lanes) (w : Word) (bad : Bool) (h : Moves s t)
    (ha : a.toNat < journalBase t.straps) : Moves s (passWrite a l w bad t) := by
  unfold Machine.passWrite
  split
  · exact h.dropParity
  · refine Moves.postRequest (h.setHold rfl) fun _ _ => ?_
    rw [show (Machine.setHold .passWrite t).straps = t.straps by unfold Machine.setHold; split <;> rfl]
    exact ha

theorem Moves.classifiedWrite {a : Addr} {l : Lanes} {w : Word} {hdp : Option (BitVec 2)} (h : Moves s t)
    (hacc : ∀ p, t.host.port = .inProgress p → p.access = .write a l w hdp) :
    Moves s (classifiedWrite (classify t a) a l w hdp t) := by
  unfold Machine.classifiedWrite
  split
  · exact h.dropWrite _
  · next hdrop =>
    split
    · next d hc => exact h.commitCellWrite l w _ (enabled_of_classify hc)
    · next d hc =>
      rw [hc] at hdrop
      exact h.stagedWrite _ hacc (enabled_of_not_dropped hdrop)
        (below_of_classify (by simp [hc]) (by simp [hc]) (by simp [hc]))
    · next hc => exact h.passWrite l w _ (below_of_classify (by simp [hc]) (by simp [hc]) (by simp [hc]))
    · exact h
    · exact h
    · exact h

theorem Moves.presentAccess {a : Access} (h : Moves s t)
    (hacc : ∀ p, t.host.port = .inProgress p → p.access = a) : Moves s (presentAccess a t) := by
  unfold Machine.presentAccess
  split
  · exact h.completeQuiet
  · exact h.classifiedRead _ _
  · split
    · exact h.completeQuiet
    · exact h.classifiedWrite hacc

theorem Moves.arrive (a : Access) (h : Moves s t) : Moves s (arrive a t) := by
  unfold Machine.arrive
  split
  · exact h.hostHeld rfl
  · refine (h.hostHeld rfl).presentAccess fun p hp => ?_
    cases hp
    rfl

theorem Moves.settle (before : State) (h : Moves s t) : Moves s (settle before t) := by
  unfold Machine.settle
  split
  · have h1 : Moves s { t with host := { t.host with again := none } } := h.note rfl rfl rfl rfl rfl
    dsimp only
    split
    · exact h1.arrive _
    · exact h1
  · exact h

theorem Moves.seeArrival (bus : HostBus) (h : Moves s t) : Moves s (seeArrival bus t) := by
  unfold Machine.seeArrival
  split
  · exact h.arrive _
  · split
    · exact h.note rfl rfl rfl rfl rfl
    · exact h
  · exact h

theorem Moves.seeReturnIdle (h : Moves s t) : Moves s (seeReturnIdle t) := by
  unfold Machine.seeReturnIdle
  split
  · exact h.hostDone nofun
  · exact h.hostDone nofun
  · exact h
  · exact h

theorem Moves.seeStrobesEnd (h : Moves s t) : Moves s (seeStrobesEnd t) := by
  unfold Machine.seeStrobesEnd
  split
  · next p hp =>
    have h1 : Moves s (setHost (.inProgress { p with ended := true }) t) := h.hostGoesOn hp rfl rfl
    exact h1.note rfl rfl rfl rfl rfl
  · exact h
  · exact h
  · exact h

theorem Moves.releaseHeld (h : Moves s t) : Moves s (releaseHeld t) := by
  unfold Machine.releaseHeld
  split
  · split
    · refine (h.hostHeld rfl).presentAccess fun q hq => ?_
      cases hq
      rfl
    · exact h
  · exact h

theorem Moves.hostReadDone (w : Word) (h : Moves s t) : Moves s (hostReadDone w t) := by
  unfold Machine.hostReadDone
  split
  · split
    · split
      · exact (h.bump .forwardHits).completeRead _
      · exact h.completeRead _
    · exact h.completeRead w
    · exact h
  · exact h

theorem Moves.hostAccessDone (w : Word) (h : Moves s t) : Moves s (hostAccessDone w t) := by
  unfold Machine.hostAccessDone
  split
  · exact h.completeQuiet
  · exact h.hostReadDone w

theorem Moves.withArrsrc (x : ArrSrc) (h : Moves s t) : Moves s { t with port := { t.port with arrsrc := x } } :=
  h.port _ fun w _ _ hr => hr.imp_right fun hr => by cases w <;> exact hr

theorem Moves.hostTimedOut (h : Moves s t) : Moves s (hostTimedOut t) := by
  have h1 := (h.withArrsrc .host).setFlag .array
  unfold Machine.hostTimedOut
  dsimp only
  split
  · exact h1.completeQuiet
  · exact h1.completeRead _
  · exact h1.completeRead _
  · exact h1

/-! ### Chains of moves through the engine's operations -/

theorem Moves.goOn (e : EngineState) (h : Moves s t) : Moves s (goOn e t) := (h.setEngine e).requestEngine

theorem Moves.enter (e : EngineState) (h : Moves s t) : Moves s (enter e t) := (h.goOn e).examine false

/-- The waiting commit that a record names completes with it. -/
theorem Moves.completeSync_if (b : Bool) (h : Moves s t) : Moves s (if b then Machine.completeSync t else t) := by
  split
  · exact h.completeSync
  · exact h

theorem Moves.retire (h : Moves s t) : Moves s (retire t) := by
  unfold Machine.retire
  split
  · exact h
  · next g rest hq =>
    have h1 : Moves s { t with queue := rest } := h.subqueue rest (by rw [hq]; exact List.subset_cons_self g rest)
    have h2 := ((h1.setEngine .idle).modDomain (d := g.domain) (f := fun x => { x with appliedTag := g.tag })
      (.settings rfl rfl rfl id)).bump .groupsApplied
    dsimp only
    exact (((((h2.setFlag .applied).flowAfterRelease _).completeSync_if g.sync).grantSlots).tryBegin).examine false

theorem Moves.copyingDone (i w : Nat) (h : Moves s t) : Moves s (copyingDone i w t) := by
  unfold Machine.copyingDone
  split
  · exact h.goOn _
  · split
    · exact h.goOn _
    · exact h.enter _

theorem Moves.markingDone (k : Nat) (h : Moves s t) : Moves s (markingDone k t) := by
  unfold Machine.markingDone
  split
  · exact h.enter _
  · split
    · exact h.goOn _
    · exact h.goOn _

theorem Moves.homingDone (i : Nat) (h : Moves s t) : Moves s (homingDone i t) := by
  unfold Machine.homingDone
  split
  · exact h.goOn _
  · split
    · exact h.enter _
    · exact h.retire

theorem Moves.endRecovery (e : EngineState) (h : Moves s t) : Moves s (endRecovery e t) := (h.setEngine e).releaseHeld

theorem Moves.failRecovery (c : BlockCause) (h : Moves s t) : Moves s (failRecovery c t) :=
  (h.setFlag .recfail).endRecovery _

theorem Moves.replayOn (hd : List Word) (r : List JournalRecord) (h : Moves s t) : Moves s (replayOn hd r t) := by
  unfold Machine.replayOn
  split
  · exact h.goOn _
  · exact h.goOn _

theorem Moves.headerRead (hd : List Word) (h : Moves s t) : Moves s (headerRead hd t) := by
  unfold Machine.headerRead
  split
  · exact h.goOn _
  · split
    · exact h.goOn _
    · exact h.failRecovery _

theorem Moves.recordRead (hd ws : List Word) (h : Moves s t) : Moves s (recordRead hd ws t) := by
  unfold Machine.recordRead
  split
  · exact h.goOn _
  · split
    · exact h.replayOn hd _
    · exact h.failRecovery _

theorem Moves.withEngine (e : Engine) (h : Moves s t) : Moves s { t with engine := e } := h.note rfl rfl rfl rfl rfl

theorem Moves.replayDone (hd : List Word) (h : Moves s t) : Moves s (replayDone hd t) :=
  ((h.withEngine _).setFlag .recovered).endRecovery .idle

theorem Moves.recoveryDone (r : Recovery) (w : Word) (h : Moves s t) : Moves s (recoveryDone r w t) := by
  cases r with
  | marker =>
    unfold Machine.recoveryDone
    dsimp only
    split
    · exact h.headerRead _
    · exact h.endRecovery _
  | header read => exact h.headerRead _
  | records hd read => exact h.recordRead hd _
  | replay hd rest => exact h.replayOn hd _
  | finish hd => exact h.replayDone hd

theorem Moves.startRecovery (h : Moves s t) : Moves s (startRecovery t) := (h.withEngine _).goOn _

theorem Moves.engineAccessDone (w : Word) (h : Moves s t) : Moves s (engineAccessDone w t) := by
  unfold Machine.engineAccessDone
  split
  · exact h.recoveryDone _ w
  · split
    · exact h.setEngine .idle
    · exact h
  · exact h
  · exact h.copyingDone _ _
  · exact h.markingDone _
  · exact h.homingDone _
  · exact h.retire
  · exact h

theorem Moves.fault (p : Phase) (i : Nat) (h : Moves s t) : Moves s (fault p i t) :=
  ((h.setFlag .fault).setEngine _).examine false

theorem Moves.engineTimedOut (h : Moves s t) : Moves s (engineTimedOut t) := by
  have h1 := (h.withArrsrc .engine).setFlag .array
  unfold Machine.engineTimedOut
  dsimp only
  split
  · exact h1.failRecovery .array
  · split
    · exact (h1.setFlag .recfail).setEngine _
    · exact h1.setEngine _
  · exact h1
  · exact h1.fault _ _
  · exact h1.fault _ _
  · exact h1.fault _ _
  · exact h1.fault _ _
  · exact h1

theorem Moves.accessComplete (ad : Option Word) (h : Moves s t) : Moves s (accessComplete ad t) := by
  unfold Machine.accessComplete
  split
  · exact h
  · next a _ =>
    have h1 : ∀ m, Moves s { t with array := m, port := t.port.finish } :=
      fun m => h.finishPort.note rfl rfl rfl rfl rfl
    dsimp only
    split
    · exact (h1 _).hostAccessDone _
    · exact (h1 _).engineAccessDone _
    · exact h.finishPort.note rfl rfl rfl rfl rfl

theorem Moves.accessTimeout (left : Option Word) (h : Moves s t) : Moves s (accessTimeout left t) := by
  unfold Machine.accessTimeout
  split
  · exact h
  · split
    · have h1 : Moves s { t with array := interrupted left t, port := t.port.finish } :=
        h.finishPort.note rfl rfl rfl rfl rfl
      dsimp only
      split
      · exact h1.hostTimedOut
      · exact h1.engineTimedOut
      · exact h1.note rfl rfl rfl rfl rfl
    · exact h

/-! ### Chains of moves through the events of time and power -/

theorem Moves.tickHold (h : Moves s t) : Moves s (tickHold t) := by
  unfold Machine.tickHold
  split
  · next p hp =>
    split
    · exact h.hostGoesOn hp rfl rfl
    · exact h
  · exact h

theorem Moves.tickArray (h : Moves s t) : Moves s (tickArray t) := by
  unfold Machine.tickArray
  split
  · exact h
  · next a ha =>
    refine h.port _ fun w r _ hr => ?_
    obtain ⟨b, hb, hw, hr⟩ | hr := hr
    · cases hb
      exact .inl ⟨a, ha, hw, hr⟩
    · exact .inr (by cases w <;> exact hr)

/-- A tick makes an expiry due in an OPEN domain alone (R148). -/
theorem domainMove_tickAge (s : State) (d : Dom) : DomainMove (s.domains.get d) (tickAge s d) := by
  unfold tickAge
  dsimp only
  split
  · next hc =>
    have hd : (s.domains.get d).state = .opened := by
      unfold ageCounting at hc
      simp only [Bool.and_eq_true, beq_iff_eq] at hc
      obtain ⟨⟨⟨⟨hd, _⟩, _⟩, _⟩, _⟩ := hc
      exact hd
    exact ⟨rfl, rfl, fun e he => ⟨e, he, rfl⟩, fun _ => .inr (enabled_of_opened hd)⟩
  · exact .refl _

theorem domains_tickArray_tickHold (s : State) : (Machine.tickArray (Machine.tickHold s)).domains = s.domains := by
  unfold Machine.tickArray Machine.tickHold
  repeat' split
  all_goals rfl

theorem Moves.tickCounts (h : Moves s t) : Moves s (tickCounts t) := by
  have h1 := h.tickHold.tickArray.domains (Four.ofFn (tickAge t)) fun d => by
    rw [domains_tickArray_tickHold, Four.get_ofFn]
    exact domainMove_tickAge t d
  exact h1.note rfl rfl rfl rfl rfl

theorem Moves.holdExpiry (h : Moves s t) : Moves s (holdExpiry t) := by
  unfold Machine.holdExpiry
  split
  · split
    · split
      · exact (h.clearSyncFlags.setFlag .hold).completeQuiet
      · exact h.examine true
    · exact h
  · exact h

/-- A group queued at its age expiry: the mark that the expiry takes away goes with the queuing as well. -/
theorem queueGroup_of_ageExpiry (d : Dom) (tag : Word) (b : Bool) (t : State) :
    queueGroup d tag b (setFlag .age (modDomain d (fun x => { x with ageDue := false }) t))
      = setFlag .age (queueGroup d tag b t) := by
  simp [queueGroup, newRecord, Domain.queued, Machine.bump, Machine.setFlag, Machine.modDomain]

theorem Moves.ageExpiry (d : Dom) (h : Moves s t) : Moves s (ageExpiry d t) := by
  have h1 : Moves s (Machine.setFlag .age (Machine.modDomain d (fun x => { x with ageDue := false }) t)) :=
    (h.modDomain (.settings rfl rfl rfl (by simp))).setFlag .age
  unfold Machine.ageExpiry
  split
  · next hdue =>
    dsimp only
    split
    · exact h1
    · split
      · rw [queueGroup_of_ageExpiry]
        exact ((h.queueGroup _ false (.inr (.inr hdue))).setFlag .age).beginAndExamine
      · exact h1.modDomain (.settings rfl rfl rfl id)
    · exact (h1.breakDomain d .age).examine false
  · exact h

theorem Moves.expire (e : Expiry) (h : Moves s t) : Moves s (expire t e) := by
  cases e with
  | hold => exact h.holdExpiry
  | array left => exact h.accessTimeout left
  | age d => exact h.ageExpiry d

theorem Moves.takeExpiry (e : Expiry) (h : Moves s t) : Moves s (takeExpiry t e) := (h.expire e).settle t

theorem Moves.endHeldByPower (h : Moves s t) : Moves s (endHeldByPower t) := by
  unfold Machine.endHeldByPower
  split
  · exact h.dropWrite .power
  · exact h.dropWrite .power
  · exact h.clearSyncFlags.completeQuiet
  · exact h

theorem Moves.withPower (p : Power) (h : Moves s t) : Moves s { t with power := p } := h.note rfl rfl rfl rfl rfl

theorem Moves.powerEntry (h : Moves s t) : Moves s (powerEntry t) :=
  ((((h.withPower _).setFlag .power).breakAll .power).flowAfterRelease _).endHeldByPower

theorem Moves.powerReturn (h : Moves s t) : Moves s (powerReturn t) :=
  ((h.withPower _).setFlag .powerok).beginAndExamine

theorem Moves.samplePwarn (low : Bool) (h : Moves s t) : Moves s (samplePwarn low t) := by
  have h1 := h.withPower { t.power with last := low, previous := t.power.last }
  unfold Machine.samplePwarn
  dsimp only
  split
  · split
    · exact h1.powerReturn
    · exact h1
  · split
    · exact h1.powerEntry
    · exact h1

theorem Moves.foldl_takeExpiry (early : List Expiry) (h : Moves s t) :
    Moves s (early.foldl Machine.takeExpiry t) := by
  induction early generalizing t with
  | nil => exact h
  | cons e es ih => exact ih (h.takeExpiry e)

theorem Moves.tickStep (low : Bool) (early : List Expiry) (h : Moves s t) : Moves s (tickStep low early t) :=
  ((h.tickCounts.foldl_takeExpiry early).samplePwarn low).settle _

/-- Every event is a chain of moves. -/
theorem Moves.takeEvent (e : Event) (h : Moves s t) : Moves s (takeEvent t e) := by
  cases e with
  | hostArrival bus => exact h.seeArrival bus
  | hostReturnIdle => exact h.seeReturnIdle
  | hostStrobesEndEarly => exact h.seeStrobesEnd
  | holdExpiry => exact h.takeExpiry .hold
  | arrayComplete ad => exact (h.accessComplete ad).settle t
  | arrayTimeout left => exact h.takeExpiry (.array left)
  | tick low early => exact h.tickStep low early
  | ageExpiry d => exact h.takeExpiry (.age d)

end Updates

end Sys2Proof.Machine
end

section
/-! PROOFS. The management writes as chains of moves; the courses a command can take, with the induction over them that
every invariant of a step uses; the two writes that change cells and the enabling. -/

namespace Sys2Proof.Machine

/-! ### Chains of moves through the management writes -/

section Updates

variable {s t : State}

/-- A write that a check decides keeps what both of its answers keep. -/
theorem keep_ite {P : State → Prop} {c : Prop} [Decidable c] {a b : Status × State} (ha : P a.2) (hb : P b.2) :
    P (if c then a else b).2 := by
  split
  · exact ha
  · exact hb

theorem Moves.withCl (c : Classifier) (h : Moves s t) : Moves s { t with cl := c } := h.note rfl rfl rfl rfl rfl

theorem Moves.windowWrite (i : Fin 16) (w : Window) (h : Moves s t) : Moves s (windowWrite i w t).2 :=
  keep_ite h (keep_ite h (h.withCl _))

theorem Moves.winbaseWrite (i : Fin 16) (data : Word) (h : Moves s t) : Moves s (winbaseWrite i data t).2 := by
  unfold Machine.winbaseWrite
  split
  · exact h
  · exact h.windowWrite i _

theorem Moves.hactWrite (data : Word) (h : Moves s t) : Moves s (hactWrite data t).2 := by
  unfold Machine.hactWrite
  split
  · exact h
  · exact keep_ite h (h.withCl _)

theorem Moves.defactWrite (data : Word) (h : Moves s t) : Moves s (defactWrite data t).2 := by
  unfold Machine.defactWrite
  split
  · exact h
  · exact keep_ite h (h.withCl _)

theorem Moves.withStore (v : Store) (h : Moves s t) : Moves s { t with store := v } := h.note rfl rfl rfl rfl rfl

/-- A setting of the array port is no request. -/
theorem Moves.portSetting {p : Port} (h : Moves s t) (access : p.access = t.port.access)
    (waiting : ∀ w, p.waiting w = t.port.waiting w) : Moves s { t with port := p } :=
  h.port p fun w r _ hr => by
    unfold Port.holds at hr ⊢
    rwa [access, waiting] at hr

theorem Moves.jaddrWrite (data : Word) (h : Moves s t) : Moves s (jaddrWrite data t).2 := by
  have h1 : Moves s { t with diag := { t.diag with addr := formedDiagAddr t data, status := .pending } } :=
    h.note rfl rfl rfl rfl rfl
  exact keep_ite h (keep_ite h (h1.postRequest fun _ => writesBelowBase_readRequest _ _))

theorem Moves.holdOffCmd (h : Moves s t) : Moves s (holdOffCmd t).2 := by
  unfold Machine.holdOffCmd
  split
  · exact (h.withEngine _).beginAndExamine
  · exact h

theorem Moves.retryCmd (h : Moves s t) : Moves s (retryCmd t).2 := by
  unfold Machine.retryCmd
  split
  · exact h.enter _
  · exact h

theorem Moves.abandonHead (h : Moves s t) : Moves s (abandonHead t) := by
  unfold Machine.abandonHead
  split
  · exact h
  · next g rest hq =>
    have h1 : Moves s { t with queue := rest } := h.subqueue rest (by rw [hq]; exact List.subset_cons_self g rest)
    dsimp only
    exact (((((h1.setEngine .idle).flowAfterRelease _).completeSync_if g.sync).grantSlots).tryBegin).examine false

theorem Moves.abandonHeadCmd (h : Moves s t) : Moves s (abandonHeadCmd t).2 := by
  unfold Machine.abandonHeadCmd
  split
  · exact h.abandonHead
  · exact h

theorem Moves.consumeHeldCommit (h : Moves s t) : Moves s (consumeHeldCommit t) := by
  unfold Machine.consumeHeldCommit
  split
  · exact h.commitToBroken _
  · exact h

theorem keptRecords_subset (s : State) : keptRecords s ⊆ s.queue := by
  unfold keptRecords
  split
  · exact List.take_subset 1 s.queue
  · exact List.nil_subset _

theorem queue_breakCore (d : Dom) (c : BreakCause) (s : State) : (breakCore d c s).queue = s.queue := by
  unfold breakCore
  split <;> rfl

theorem queue_breakIfOpen (c : BreakCause) (d : Dom) (s : State) : (breakIfOpen c s d).queue = s.queue := by
  unfold breakIfOpen
  split
  · exact queue_breakCore d c s
  · rfl

theorem queue_breakAll (c : BreakCause) (s : State) : (breakAll c s).queue = s.queue := by
  simp only [breakAll, Ix4.all, List.foldl, queue_breakIfOpen]

theorem queue_completeQuiet (s : State) : (completeQuiet s).queue = s.queue := by
  unfold completeQuiet
  split <;> rfl

theorem queue_dropWrite (c : DropCause) (s : State) : (dropWrite c s).queue = s.queue := queue_completeQuiet _

theorem queue_consumeHeldCommit (s : State) : (consumeHeldCommit s).queue = s.queue := by
  unfold consumeHeldCommit
  split
  · exact queue_dropWrite _ _
  · rfl

theorem Moves.stageClear (h : Moves s t) : Moves s (stageClear t) := by
  have hq : keptRecords t ⊆ (Machine.consumeHeldCommit (Machine.breakAll .clear t)).queue := by
    rw [queue_consumeHeldCommit, queue_breakAll]
    exact keptRecords_subset t
  exact ((((h.breakAll .clear).consumeHeldCommit.subqueue _ hq).completeSync_if _).flowAfterRelease _).examine false

theorem Moves.stageClearCmd (h : Moves s t) : Moves s (stageClearCmd t).2 := by
  unfold Machine.stageClearCmd
  split
  · exact h
  · exact h
  all_goals exact h.stageClear

theorem Moves.recoverRetryCmd (h : Moves s t) : Moves s (recoverRetryCmd t).2 := by
  unfold Machine.recoverRetryCmd
  split
  · split
    · exact h
    · exact h.startRecovery
  · exact h

theorem Moves.journalDiscardCmd (h : Moves s t) : Moves s (journalDiscardCmd t).2 := by
  unfold Machine.journalDiscardCmd
  split
  · split
    · exact h
    · exact h.goOn (.blocked _ true)
  · exact h

theorem Moves.ecmdWrite (code : Word) (h : Moves s t) : Moves s (ecmdWrite code t).2 := by
  unfold Machine.ecmdWrite
  split
  · exact h.withEngine _
  · exact h.holdOffCmd
  · exact h.retryCmd
  · exact h.abandonHeadCmd
  · exact h.stageClearCmd
  · exact h.recoverRetryCmd
  · exact h.journalDiscardCmd
  · exact h

/-- A write of a register is a chain of moves, but of DCTL[d] and CCHI[d], which change the cells and the enabling. -/
theorem Moves.writeReg {r : Reg} (data : Word) (h : Moves s t) (hd : ∀ d, r ≠ .dctl d) (hc : ∀ d, r ≠ .cchi d) :
    Moves s (writeReg r data t).2 := by
  cases r with
  | dctl d => exact absurd rfl (hd d)
  | cchi d => exact absurd rfl (hc d)
  | ecmd => exact h.ecmdWrite data
  | stalllvl => exact keep_ite h ((h.withStore _).flowRetest.examine false)
  | resumelvl => exact keep_ite h ((h.withStore _).flowRetest.examine false)
  | holdlim => exact keep_ite h (h.note rfl rfl rfl rfl rfl)
  | arrto => exact keep_ite h (h.portSetting rfl fun w => by cases w <;> rfl)
  | starve => exact keep_ite h (h.portSetting rfl fun w => by cases w <;> rfl)
  | agechain => exact keep_ite h (h.note rfl rfl rfl rfl rfl)
  | hact => exact h.hactWrite data
  | defact => exact h.defactWrite data
  | jaddr => exact h.jaddrWrite data
  | hset k => exact keep_ite h (h.withCl _)
  | ceil d => exact keep_ite h (keep_ite h (h.modDomain (f := fun x => { x with ceil := data }) (.settings rfl rfl rfl id)))
  | cclo d => exact h.modDomain (f := fun x => { x with cellLatch := data }) (.settings rfl rfl rfl id)
  | agerld d => exact keep_ite h (h.modDomain (f := fun x => { x with agerld := data }) (.settings rfl rfl rfl id))
  | winbase i => exact h.winbaseWrite i data
  | winlim i => exact h.windowWrite i _
  | _ => exact h.note rfl rfl rfl rfl rfl

end Updates

/-! ### What a command does -/

/-- What a write frame does at the end of its byte 2: nothing (NOREG), or the write of a register. -/
def writesRegister (effect : State → Status × State) : Prop :=
  ∀ t, effect t = (.noreg, t) ∨ ∃ r data, effect t = writeReg r data t

/-- The courses that a command can take: an event, a reset, a write frame, a read frame, a frame that is cut. -/
inductive Course (s : State) : State → Prop
  | event (e : Event) : Course s (takeEvent s e)
  | reset (st : Straps) (left : Option Word) (held : Bool) :
      Course s (requestEngine (State.cold st held (interrupted left s) s.pending))
  | write (word : State → Word) (effect : State → Status × State) (inside : List Event) (h : writesRegister effect) :
      Course s (frameReturning word effect inside s)
  | read (index : BitVec 7) (inside : List Event) : Course s (indexReadFrame index inside s)
  | cut {t : State} (h : sameBlocks s t) : Course s t

theorem writesRegister_writeReg (r : Reg) (data : Word) : writesRegister (writeReg r data) :=
  fun _ => .inr ⟨r, data, rfl⟩

theorem writesRegister_indexEffect (index : BitVec 7) (data : Word) : writesRegister (indexEffect index data) := by
  intro t
  unfold indexEffect
  split
  · next r _ => exact .inr ⟨r, data, rfl⟩
  · exact .inl rfl

/-- A frame that is cut changes the management port alone (R170). -/
theorem sameBlocks_cutFrame (frame : BitVec 24) {n : Nat} (hn : n < 24) (s : State) :
    sameBlocks s ((Line.ofState s).cutFrame frame n).state := by
  unfold Line.cutFrame
  by_cases hs : framesSeen s
  · obtain ⟨f, hf⟩ : ∃ f, Line.clocks frame 0 n (Line.ofState s).assertMss = ⟨s, .selected f⟩ := by
      by_cases h8 : n < 8
      · rw [assertMss_of_framesSeen frame hs, clocks_shift frame s _ 0 n (.inl (by omega))]
        exact ⟨_, rfl⟩
      · obtain ⟨k, rfl⟩ := Nat.exists_eq_add_of_le (Nat.le_of_not_lt h8)
        rw [clocks_append, clocks_byte0 frame hs, clocks_shift frame s _ _ _ (.inr (by omega))]
        exact ⟨_, rfl⟩
    rw [hf]
    unfold Line.deassertMss
    dsimp only
    split <;> exact ⟨rfl, rfl, rfl, rfl, rfl, rfl, rfl, rfl, rfl, rfl, rfl, rfl, rfl, rfl⟩
  · rw [assertMss_of_held hs, clocks_of_not_selected frame 0 n (fun f hf => by cases hf)]
    exact ⟨rfl, rfl, rfl, rfl, rfl, rfl, rfl, rfl, rfl, rfl, rfl, rfl, rfl, rfl⟩

/-- What a command can do: one course for each row of the table. -/
theorem course_of_exec {c : Instr} {s t : State} (h : exec c s = .next t) : Course s t := by
  cases c with
  | hostAccessArrival bus => cases h; exact .event (.hostArrival bus)
  | hostPortReturnIdle => cases h; exact .event .hostReturnIdle
  | holdLimitExpiry => cases h; exact .event .holdExpiry
  | arrayAccessComplete ad => cases h; exact .event (.arrayComplete ad)
  | arrayTimeout left => cases h; exact .event (.arrayTimeout left)
  | tick low early => cases h; exact .event (.tick low early)
  | ageExpiry d => cases h; exact .event (.ageExpiry d)
  | hostStrobesEndEarly => cases h; exact .event .hostStrobesEndEarly
  | reset st left held => cases h; exact .reset st left held
  | incompleteFrame frame clocks => cases h; exact .cut (sameBlocks_cutFrame frame clocks.isLt s)
  | viewRead index inside => cases h; exact .read index inside
  | registerWrite index data inside => cases h; exact .write _ _ inside (writesRegister_indexEffect index data)
  | holdOn inside => cases h; exact .write _ _ inside (writesRegister_writeReg .ecmd 1#16)
  | holdOff inside => cases h; exact .write _ _ inside (writesRegister_writeReg .ecmd 2#16)
  | retry inside => cases h; exact .write _ _ inside (writesRegister_writeReg .ecmd 3#16)
  | abandonHead inside => cases h; exact .write _ _ inside (writesRegister_writeReg .ecmd 4#16)
  | stageClear inside => cases h; exact .write _ _ inside (writesRegister_writeReg .ecmd 5#16)
  | recoverRetry inside => cases h; exact .write _ _ inside (writesRegister_writeReg .ecmd 6#16)
  | journalDiscard inside => cases h; exact .write _ _ inside (writesRegister_writeReg .ecmd 7#16)
  | unnamedEcmdCode code inside => cases h; exact .write _ _ inside (writesRegister_writeReg .ecmd code)
  | winbaseWrite i data inside => cases h; exact .write _ _ inside (writesRegister_writeReg (.winbase i) data)
  | winlimWrite i data inside => cases h; exact .write _ _ inside (writesRegister_writeReg (.winlim i) data)
  | hsetWrite k data inside => cases h; exact .write _ _ inside (writesRegister_writeReg (.hset k) data)
  | hactWrite data inside => cases h; exact .write _ _ inside (writesRegister_writeReg .hact data)
  | defactWrite data inside => cases h; exact .write _ _ inside (writesRegister_writeReg .defact data)
  | ccloWrite d data inside => cases h; exact .write _ _ inside (writesRegister_writeReg (.cclo d) data)
  | cchiWrite d data inside => cases h; exact .write _ _ inside (writesRegister_writeReg (.cchi d) data)
  | domainEnable d data inside =>
    cases h; exact .write _ _ inside (writesRegister_writeReg (.dctl d) (dctlData true data))
  | domainDisable d data inside =>
    cases h; exact .write _ _ inside (writesRegister_writeReg (.dctl d) (dctlData false data))
  | dctlOptionsWrite d data inside =>
    cases h
    exact .write _ _ inside fun t => .inr ⟨.dctl d, dctlData (t.domains.get d).enabled data, rfl⟩
  | ceilWrite d data inside => cases h; exact .write _ _ inside (writesRegister_writeReg (.ceil d) data)
  | abortvalWrite data inside => cases h; exact .write _ _ inside (writesRegister_writeReg .abortval data)
  | stalllvlWrite data inside => cases h; exact .write _ _ inside (writesRegister_writeReg .stalllvl data)
  | resumelvlWrite data inside => cases h; exact .write _ _ inside (writesRegister_writeReg .resumelvl data)
  | holdlimWrite data inside => cases h; exact .write _ _ inside (writesRegister_writeReg .holdlim data)
  | arrtoWrite data inside => cases h; exact .write _ _ inside (writesRegister_writeReg .arrto data)
  | starveWrite data inside => cases h; exact .write _ _ inside (writesRegister_writeReg .starve data)
  | tickdivWrite data inside => cases h; exact .write _ _ inside (writesRegister_writeReg .tickdiv data)
  | agerldWrite d data inside => cases h; exact .write _ _ inside (writesRegister_writeReg (.agerld d) data)
  | agechainWrite data inside => cases h; exact .write _ _ inside (writesRegister_writeReg .agechain data)
  | jaddrloWrite data inside => cases h; exact .write _ _ inside (writesRegister_writeReg .jaddrlo data)
  | jaddrWrite data inside => cases h; exact .write _ _ inside (writesRegister_writeReg .jaddr data)
  | flagsWrite data inside => cases h; exact .write _ _ inside (writesRegister_writeReg .flags data)
  | enablesWrite data inside => cases h; exact .write _ _ inside (writesRegister_writeReg .enables data)
  | counterClear c data inside => cases h; exact .write _ _ inside (writesRegister_writeReg (.counter c) data)

/-- A predicate that sees neither the management port nor the waiting commands, that every event and every register write
keep, and that a reset meets, is kept by every step. -/
structure KeptByCourses (P : State → Prop) : Prop where
  mgmt : ∀ s m, P s → P { s with mgmt := m }
  pending : ∀ s l, P s → P { s with pending := l }
  event : ∀ s e, P s → P (takeEvent s e)
  settle : ∀ before s, P s → P (settle before s)
  reset : ∀ st held array pending, P (requestEngine (State.cold st held array pending))
  writeReg : ∀ s r data, P s → P (writeReg r data s).2

namespace KeptByCourses

variable {P : State → Prop}

theorem sameBlocks (k : KeptByCourses P) {s t : State} (h : sameBlocks s t) (hs : P s) : P t := by
  have e : t = { s with mgmt := t.mgmt } := by
    obtain ⟨h1, h2, h3, h4, h5, h6, h7, h8, h9, h10, h11, h12, h13, h14⟩ := h
    cases s
    cases t
    simp_all
  rw [e]
  exact k.mgmt s _ hs

theorem afterInside (k : KeptByCourses P) (inside : List Event) {s : State} (hs : P s) : P (afterInside inside s) := by
  induction inside generalizing s with
  | nil => exact hs
  | cons e es ih => exact ih (k.event s e hs)

theorem effect (k : KeptByCourses P) {effect : State → Status × State} (he : writesRegister effect) {s : State}
    (hs : P s) : P (effect s).2 := by
  obtain h | ⟨r, data, h⟩ := he s
  · rw [h]
    exact hs
  · rw [h]
    exact k.writeReg s r data hs

theorem course (k : KeptByCourses P) {s t : State} (h : Course s t) (hs : P s) : P t := by
  cases h with
  | event e => exact k.event s e hs
  | reset st left held => exact k.reset st held _ _
  | write word effect inside he =>
    unfold frameReturning
    dsimp only
    split
    · exact k.mgmt _ _ (k.afterInside inside hs)
    · exact k.settle _ _ (k.mgmt _ _ (k.effect he (k.afterInside inside hs)))
  | read index inside =>
    unfold indexReadFrame
    dsimp only
    split
    · exact k.mgmt _ _ (k.afterInside inside hs)
    · exact k.mgmt _ _ (k.afterInside inside hs)
  | cut h => exact k.sameBlocks h hs

theorem step (k : KeptByCourses P) {s t : State} (h : step s = .next t) (hs : P s) : P t := by
  unfold Machine.step at h
  split at h
  · cases h
    exact hs
  · exact k.course (course_of_exec h) (k.pending s _ hs)

end KeptByCourses

/-! ### The writes that change cells and the enabling -/

theorem cchiWrite_cases (d : Dom) (data : Word) (s : State) :
    (cchiWrite d data s).2 = s
      ∨ ((formedCell s d data).toNat < journalBase s.straps
        ∧ ((s.domains.get d).enabled = true → cellConflict s d (formedCell s d data) = false)
        ∧ (cchiWrite d data s).2 = modDomain d (fun x => { x with cell := formedCell s d data }) s) := by
  unfold cchiWrite
  split
  · exact .inl rfl
  · next hb =>
    split
    · exact .inl rfl
    · next hc =>
      split
      · exact .inl rfl
      · exact .inr ⟨Nat.lt_of_not_le hb, fun he => by simpa [he] using hc, rfl⟩

/-- What a DCTL[d] write can do to the state: refused, the options, an enabling, a disabling (R15, R18). -/
theorem dctlWrite_cases (d : Dom) (data : Word) (s : State) :
    (dctlWrite d data s).2 = s
      ∨ ∃ act, (dctlWrite d data s).2 = modDomain d (Domain.withOptions data act) s
        ∨ (cellConflict s d (s.domains.get d).cell = false
          ∧ (dctlWrite d data s).2 = modDomain d (fun x => (x.withOptions data act).enable) s)
        ∨ (quiescent s = true ∧ (dctlWrite d data s).2 = modDomain d (fun x => (x.withOptions data act).disable) s) := by
  unfold dctlWrite
  split
  · exact .inl rfl
  · next act _ =>
    dsimp only
    split
    · exact .inr ⟨act, .inl rfl⟩
    · split
      · exact .inl rfl
      · split
        · exact .inl rfl
        · next hc =>
          split
          · exact .inl rfl
          · next hq =>
            refine .inr ⟨act, .inr ?_⟩
            cases hon : data.getLsbD 0
            · exact .inr ⟨by simpa using hq, by simp⟩
            · exact .inl ⟨by simpa [hon] using hc, by simp⟩

theorem domainMove_withOptions (data : Word) (act : AgeAction) (x : Domain) :
    DomainMove x (x.withOptions data act) := .settings rfl rfl rfl id

end Sys2Proof.Machine
end

section
/-! PROOFS. Every entry, every commit cell and every host write stays below the journal base. -/

namespace Sys2Proof.Machine

/-! ### Every address lies below the journal base -/

/-- `addressesSound` with a name for each part, the requests of the array port taken together. -/
structure AddressesBelow (s : State) : Prop where
  group : ∀ d, ∀ e ∈ (s.domains.get d).group, e.addr.toNat < journalBase s.straps
  cell : ∀ d, (s.domains.get d).cell.toNat < journalBase s.straps
  queue : ∀ g ∈ s.queue, g.cell.toNat < journalBase s.straps ∧ ∀ e ∈ g.entries, e.addr.toNat < journalBase s.straps
  waiting : ∀ p d a l w hdp, s.host.port = .inProgress p → p.hold = .storeSpace d → p.access = .write a l w hdp →
    a.toNat < journalBase s.straps
  port : ∀ w r, w ≠ .engine → s.port.holds w r → writesBelowBase s.straps r

theorem addressesSound_iff (s : State) : addressesSound s ↔ AddressesBelow s := by
  constructor
  · rintro ⟨hgroup, hcell, hqueue, hwaiting, hhost, hmgmt, haccess⟩
    refine ⟨hgroup, hcell, hqueue, hwaiting, fun w r hw hr => ?_⟩
    obtain ⟨a, ha, rfl, rfl⟩ | hr := hr
    · exact haccess a ha hw
    · cases w with
      | host => exact hhost r hr
      | mgmt => exact hmgmt r hr
      | engine => exact absurd rfl hw
  · rintro ⟨hgroup, hcell, hqueue, hwaiting, hport⟩
    exact ⟨hgroup, hcell, hqueue, hwaiting, fun r hr => hport .host r nofun (.inr hr),
      fun r hr => hport .mgmt r nofun (.inr hr), fun a ha hw => hport _ _ hw (.inl ⟨a, ha, rfl, rfl⟩)⟩

theorem AddressesBelow.below_of_takesAt {s : State} {d : Dom} {a : Addr} (h : AddressesBelow s) (ha : takesAt s d a) :
    a.toNat < journalBase s.straps := by
  obtain ⟨_, ha⟩ | ⟨p, l, w, hdp, hp, hk, ha⟩ := ha
  · exact ha
  · exact h.waiting p d a l w hdp hp hk ha

/-- Every move keeps every address below the base. -/
theorem AddressesBelow.move {s t : State} (m : Move s t) (h : AddressesBelow s) : AddressesBelow t := by
  obtain ⟨hgroup, hcell, hqueue, hwaiting, hport⟩ := h
  cases m with
  | note hs hd hq hp hh =>
    constructor <;> simp only [hs, hd, hq, hp, hh] <;> assumption
  | domains v hv =>
    refine ⟨fun d e he => ?_, fun d => ?_, hqueue, hwaiting, hport⟩
    · obtain ⟨e', he', ha⟩ := (hv d).group e he
      rw [← ha]
      exact hgroup d e' he'
    · have hc : (v.get d).cell = _ := (hv d).cell
      simp only [hc]
      exact hcell d
  | hostPort p hp =>
    refine ⟨hgroup, hcell, hqueue, fun q d a l w hdp hq hk ha => ?_, hport⟩
    obtain ⟨q', hq', hk', ha'⟩ := hp q hq (by rw [hk]; rfl)
    exact hwaiting q' d a l w hdp hq' (hk'.trans hk) (ha'.trans ha)
  | waitSpace access hold enabled below =>
    refine ⟨hgroup, hcell, hqueue, fun q d a l w hdp hq hk ha => ?_, hport⟩
    cases hq
    rw [access] at ha
    cases ha
    exact below
  | waitSlot hold enabled =>
    refine ⟨hgroup, hcell, hqueue, fun q d a l w hdp hq hk ha => ?_, hport⟩
    cases hq
    rw [hold] at hk
    cases hk
  | @take d e ha =>
    have hb : e.addr.toNat < journalBase s.straps :=
      AddressesBelow.below_of_takesAt ⟨hgroup, hcell, hqueue, hwaiting, hport⟩ ha
    refine ⟨fun d' e' he' => ?_, fun d' => ?_, hqueue, hwaiting, hport⟩
    · rw [modDomain_domains, Four.get_set] at he'
      split at he'
      · obtain he' | he' := List.mem_append.mp he'
        · exact hgroup d e' he'
        · rw [List.mem_singleton.mp he']
          exact hb
      · exact hgroup d' e' he'
    · rw [modDomain_domains, Four.get_set]
      split
      · exact hcell d
      · exact hcell d'
  | @queueGroup d tag sync _ =>
    refine ⟨fun d' e he => ?_, fun d' => ?_, fun g hg => ?_, hwaiting, hport⟩
    · simp only [Machine.queueGroup, bump_domains, Four.get_set] at he
      split at he
      · cases he
      · exact hgroup d' e he
    · simp only [Machine.queueGroup, bump_domains, bump_straps, Four.get_set]
      split
      · exact hcell d
      · exact hcell d'
    · obtain hg | hg := List.mem_append.mp hg
      · exact hqueue g hg
      · rw [List.mem_singleton.mp hg]
        exact ⟨hcell d, hgroup d⟩
  | queue q hq =>
    refine ⟨hgroup, hcell, fun g hg => ?_, hwaiting, hport⟩
    obtain ⟨g', hg', hc, he⟩ := hq g hg
    rw [← hc, ← he]
    exact hqueue g' hg'
  | port p hp =>
    refine ⟨hgroup, hcell, hqueue, hwaiting, fun w r hw hr => ?_⟩
    obtain hr | hr := hp w r hw hr
    · exact hport w r hw hr
    · exact hr

theorem AddressesBelow.moves {s t : State} (m : Moves s t) (h : AddressesBelow s) : AddressesBelow t :=
  m.keep (fun _ _ => AddressesBelow.move) h

/-- A domain that changes neither its entries nor brings a cell at or above the base. -/
theorem AddressesBelow.modDomain {s : State} {d : Dom} {f : Domain → Domain} (h : AddressesBelow s)
    (group : (f (s.domains.get d)).group = (s.domains.get d).group)
    (cell : (f (s.domains.get d)).cell.toNat < journalBase s.straps) : AddressesBelow (modDomain d f s) := by
  refine ⟨fun d' e he => ?_, fun d' => ?_, h.queue, h.waiting, h.port⟩
  · rw [modDomain_domains, Four.get_set] at he
    split at he
    · rw [group] at he
      exact h.group d e he
    · exact h.group d' e he
  · rw [modDomain_domains, Four.get_set]
    split
    · exact cell
    · exact h.cell d'

theorem AddressesBelow.dctlWrite {s : State} (d : Dom) (data : Word) (h : AddressesBelow s) :
    AddressesBelow (dctlWrite d data s).2 := by
  obtain e | ⟨act, e | ⟨_, e⟩ | ⟨_, e⟩⟩ := dctlWrite_cases d data s
  · rw [e]
    exact h
  all_goals
    rw [e]
    exact h.modDomain rfl (h.cell d)

theorem AddressesBelow.cchiWrite {s : State} (d : Dom) (data : Word) (h : AddressesBelow s) :
    AddressesBelow (cchiWrite d data s).2 := by
  obtain e | ⟨below, _, e⟩ := cchiWrite_cases d data s
  · rw [e]
    exact h
  · rw [e]
    exact h.modDomain rfl below

theorem AddressesBelow.writeReg {s : State} (r : Reg) (data : Word) (h : AddressesBelow s) :
    AddressesBelow (writeReg r data s).2 := by
  by_cases hd : ∃ d, r = .dctl d
  · obtain ⟨d, rfl⟩ := hd
    exact h.dctlWrite d data
  · by_cases hc : ∃ d, r = .cchi d
    · obtain ⟨d, rfl⟩ := hc
      exact h.cchiWrite d data
    · exact h.moves ((Moves.refl s).writeReg data (fun d e => hd ⟨d, e⟩) (fun d e => hc ⟨d, e⟩))

/-- The journal leaves room below it: its base is above address 0. -/
theorem journalBase_pos (st : Straps) : 0 < journalBase st := by
  have hr : journalWords st ≤ 8 + 3 * 512 := by
    unfold journalWords journalRecords
    repeat' split
    all_goals omega
  have ha : 0x20000 ≤ arrayWords st := Nat.le_mul_of_pos_right _ (Nat.two_pow_pos _)
  unfold journalBase
  omega

theorem addressesBelow_cold (st : Straps) (held : Bool) (array : List Host.Cell) (pending : List Instr) :
    AddressesBelow (State.cold st held array pending) where
  group d e he := by cases d <;> cases he
  cell d := by cases d <;> exact journalBase_pos st
  queue g hg := by cases hg
  waiting p d a l w hdp hp := by cases hp
  port w r _ hr := by
    obtain ⟨a, ha, _⟩ | hr := hr
    · cases ha
    · cases w <;> cases hr

theorem addressesBelow_keptByCourses : KeptByCourses AddressesBelow where
  mgmt s _ h := h.moves ((Moves.refl s).note rfl rfl rfl rfl rfl)
  pending s _ h := h.moves ((Moves.refl s).note rfl rfl rfl rfl rfl)
  event s e h := h.moves ((Moves.refl s).takeEvent e)
  settle before s h := h.moves ((Moves.refl s).settle before)
  reset st held array pending := (addressesBelow_cold st held array pending).moves (Moves.refl _).requestEngine
  writeReg _ r data h := h.writeReg r data

/-- Settles O57: every event and every register write but CCHI[d] is a chain of moves, none of which brings an address from
anywhere but the classifier, which lets through those below the base; CCHI[d] refuses a cell at or above it (R14). -/
theorem stepsKeepAddressesBelowTheBase : Obligations.StepsKeepAddressesBelowTheBase := by
  intro s t hs h
  rw [addressesSound_iff] at hs ⊢
  exact addressesBelow_keptByCourses.step h hs

end Sys2Proof.Machine
end

section
/-! PROOFS. The commit cells of enabled domains stay distinct: events act for enabled domains alone, and while an access
waits for one the part is not quiescent, so that no disabling comes between. -/

namespace Sys2Proof.Machine

/-! ### The domains that events act for are enabled, and no event enables one -/

/-- An access that waits for a domain and a due age expiry are of enabled domains, and the cells of these are distinct. -/
structure ActsForEnabled (s : State) : Prop where
  space : ∀ p d, s.host.port = .inProgress p → p.hold = .storeSpace d →
    (s.domains.get d).enabled = true ∧ ∃ a l w hdp, p.access = .write a l w hdp
  slot : ∀ p d tag, s.host.port = .inProgress p → p.hold = .queueSlot d tag → (s.domains.get d).enabled = true
  due : ∀ d, (s.domains.get d).ageDue = true → (s.domains.get d).enabled = true
  distinct : cellsDistinct s

theorem ActsForEnabled.enabled_of_takesAt {s : State} {d : Dom} {a : Addr} (h : ActsForEnabled s)
    (ha : takesAt s d a) : (s.domains.get d).enabled = true := by
  obtain ⟨hd, _⟩ | ⟨p, _, _, _, hp, hk, _⟩ := ha
  · exact hd
  · exact (h.space p d hp hk).1

theorem ActsForEnabled.enabled_of_mayQueue {s : State} {d : Dom} (h : ActsForEnabled s) (hd : mayQueue s d) :
    (s.domains.get d).enabled = true := by
  obtain hd | ⟨p, tag, hp, hk⟩ | hd := hd
  · exact hd
  · exact h.slot p d tag hp hk
  · exact h.due d hd

/-- The commit cells and the enable options of two states are the same. -/
def sameCells (s t : State) : Prop :=
  ∀ d, (t.domains.get d).cell = (s.domains.get d).cell ∧ (t.domains.get d).enabled = (s.domains.get d).enabled

/-- Replacing one domain by one with its cell and its enable option. -/
theorem sameCells_set {s t : State} {d : Dom} {x : Domain} (ht : t.domains = s.domains.set d x)
    (cell : x.cell = (s.domains.get d).cell) (enabled : x.enabled = (s.domains.get d).enabled) : sameCells s t := by
  intro e
  rw [ht, Four.get_set]
  split
  · next he => rw [he]; exact ⟨cell, enabled⟩
  · exact ⟨rfl, rfl⟩

theorem sameCells_of_move {s t : State} (m : Move s t) (h : ActsForEnabled s) : sameCells s t := by
  cases m with
  | note _ hd _ _ _ => intro d; rw [hd]; exact ⟨rfl, rfl⟩
  | domains v hv => exact fun d => ⟨(hv d).cell, (hv d).enabled⟩
  | take ha => exact sameCells_set rfl rfl (h.enabled_of_takesAt ha).symm
  | queueGroup tag sync hd => exact sameCells_set rfl rfl (h.enabled_of_mayQueue hd).symm
  | _ => exact fun d => ⟨rfl, rfl⟩

theorem cellsDistinct_of_sameCells {s t : State} (h : sameCells s t) (hs : cellsDistinct s) : cellsDistinct t := by
  intro d e hne hd he
  rw [(h d).2] at hd
  rw [(h e).2] at he
  rw [(h d).1, (h e).1]
  exact hs d e hne hd he

/-- Every expiry that a move leaves due is of an enabled domain. -/
theorem due_of_move {s t : State} (m : Move s t) (h : ActsForEnabled s) (d : Dom)
    (hd : (t.domains.get d).ageDue = true) : (s.domains.get d).enabled = true := by
  cases m with
  | note _ hdom _ _ _ => rw [hdom] at hd; exact h.due d hd
  | domains v hv =>
    obtain hd | hd := (hv d).ageDue hd
    · exact h.due d hd
    · exact hd
  | take _ =>
    rw [modDomain_domains, Four.get_set] at hd
    split at hd
    · next e => rw [e]; exact h.due _ hd
    · exact h.due d hd
  | queueGroup tag sync _ =>
    simp only [queueGroup, bump_domains, Four.get_set] at hd
    split at hd
    · cases hd
    · exact h.due d hd
  | _ => exact h.due d hd

theorem Hold.of_waits_eq_false {k : Hold} (h : k.waits = false) :
    (∀ d, k ≠ .storeSpace d) ∧ ∀ d tag, k ≠ .queueSlot d tag := by
  constructor
  · rintro d rfl
    cases h
  · rintro d tag rfl
    cases h

/-- Every access that waits after a move has waited before, or begins to wait for an enabled domain. -/
theorem waiting_of_move {s t : State} (m : Move s t) (h : ActsForEnabled s) (p : Progress)
    (hp : t.host.port = .inProgress p) :
    (∀ d, p.hold = .storeSpace d →
      (s.domains.get d).enabled = true ∧ ∃ a l w hdp, p.access = .write a l w hdp)
      ∧ ∀ d tag, p.hold = .queueSlot d tag → (s.domains.get d).enabled = true := by
  have before : ∀ q, s.host.port = .inProgress q → p.hold = q.hold → p.access = q.access →
      (∀ d, p.hold = .storeSpace d →
        (s.domains.get d).enabled = true ∧ ∃ a l w hdp, p.access = .write a l w hdp)
        ∧ ∀ d tag, p.hold = .queueSlot d tag → (s.domains.get d).enabled = true := by
    intro q hq hk ha
    rw [hk, ha]
    exact ⟨fun d hd => h.space q d hq hd, fun d tag hd => h.slot q d tag hq hd⟩
  cases m with
  | note _ _ _ _ hh => exact before p (hh ▸ hp) rfl rfl
  | hostPort q hq =>
    cases hw : p.hold.waits
    · obtain ⟨hspace, hslot⟩ := Hold.of_waits_eq_false hw
      exact ⟨fun d hd => absurd hd (hspace d), fun d tag hd => absurd hd (hslot d tag)⟩
    · obtain ⟨q', hq', hk, ha⟩ := hq p hp hw
      exact before q' hq' hk.symm ha.symm
  | @waitSpace q d a l w hdp access hold enabled _ =>
    cases hp
    rw [hold]
    refine ⟨fun d' hd => ?_, nofun⟩
    cases hd
    exact ⟨enabled, a, l, w, hdp, access⟩
  | waitSlot hold enabled =>
    cases hp
    rw [hold]
    refine ⟨nofun, fun d' tag hd => ?_⟩
    cases hd
    exact enabled
  | _ => exact before p hp rfl rfl

theorem ActsForEnabled.move {s t : State} (m : Move s t) (h : ActsForEnabled s) : ActsForEnabled t := by
  have same := sameCells_of_move m h
  refine ⟨fun p d hp hk => ?_, fun p d tag hp hk => ?_, fun d hd => ?_, cellsDistinct_of_sameCells same h.distinct⟩
  · rw [(same d).2]
    exact (waiting_of_move m h p hp).1 d hk
  · rw [(same d).2]
    exact (waiting_of_move m h p hp).2 d tag hk
  · rw [(same d).2]
    exact due_of_move m h d hd

theorem ActsForEnabled.moves {s t : State} (m : Moves s t) (h : ActsForEnabled s) : ActsForEnabled t :=
  m.keep (fun _ _ => ActsForEnabled.move) h

/-! ### While an access waits, the part is not quiescent -/

/-- No access waits for space or a slot, or the part is not quiescent. A disabling needs quiescence (R39), so it finds no
access that waits for the domain. -/
def waitsInUse (s : State) : Prop := noneWaiting s ∨ quiescent s = false

section NoneWaiting

variable {s t : State}

theorem noneWaiting_of_not_inProgress (h : ∀ p, s.host.port ≠ .inProgress p) : noneWaiting s :=
  fun p hp => absurd hp (h p)

theorem noneWaiting_of_same_port (h : t.host.port = s.host.port) (hs : noneWaiting s) : noneWaiting t := by
  unfold noneWaiting
  rw [h]
  exact hs

theorem noneWaiting_setHost {p : Progress} (s : State) (hp : p.hold.waits = false) :
    noneWaiting (setHost (.inProgress p) s) := by
  intro q hq
  cases hq
  exact Hold.of_waits_eq_false hp

theorem noneWaiting_setHold {k : Hold} (s : State) (hk : k.waits = false) : noneWaiting (setHold k s) := by
  unfold setHold
  split
  · exact noneWaiting_setHost s hk
  · next h => exact noneWaiting_of_not_inProgress h

theorem noneWaiting_completeQuiet (s : State) : noneWaiting (completeQuiet s) := by
  unfold completeQuiet
  split
  · exact noneWaiting_of_not_inProgress (quietEnd_ne_inProgress _)
  · next h => exact noneWaiting_of_not_inProgress h

theorem noneWaiting_completeRead (w : Word) (s : State) : noneWaiting (completeRead w s) := by
  unfold completeRead
  split
  · exact noneWaiting_of_not_inProgress (readEnd_ne_inProgress _ w)
  · next h => exact noneWaiting_of_not_inProgress h

theorem noneWaiting_dropWrite (c : DropCause) (s : State) : noneWaiting (dropWrite c s) := noneWaiting_completeQuiet _

theorem noneWaiting_commitToBroken (d : Dom) (s : State) : noneWaiting (commitToBroken d s) := noneWaiting_dropWrite _ _

theorem host_requestEngine (s : State) : (requestEngine s).host = s.host := by
  unfold requestEngine
  split <;> rfl

theorem host_tryBegin (s : State) : (tryBegin s).host = s.host := by
  unfold tryBegin
  split
  · exact host_requestEngine _
  · rfl

theorem noneWaiting_commitQueued (d : Dom) (tag : Word) (s : State) : noneWaiting (tryBegin (commitQueued d tag s)) := by
  refine noneWaiting_of_same_port (congrArg HostSide.port (host_tryBegin _)) ?_
  unfold commitQueued
  split
  · exact noneWaiting_setHold _ rfl
  · exact noneWaiting_completeQuiet _

theorem noneWaiting_placeNow (d : Dom) (a : Addr) (l : Lanes) (w : Word) (s : State) :
    noneWaiting (placeNow d a l w s) := by
  unfold placeNow
  split
  · exact noneWaiting_completeQuiet _
  · split
    · exact noneWaiting_dropWrite _ _
    · exact noneWaiting_completeQuiet _

end NoneWaiting

theorem not_quiescent_of_queue {s : State} (h : s.queue ≠ []) : quiescent s = false := by
  simp [quiescent, h]

/-- Drain is pending only while a group is queued (R51). -/
theorem queue_ne_nil_of_drainPending {s : State} (h : drainPending s = true) : s.queue ≠ [] := by
  intro hq
  simp [drainPending, hq] at h

section InUse

variable {s t : State}

theorem waitsInUse_of_queue (h : s.queue ≠ []) : waitsInUse s := .inr (not_quiescent_of_queue h)

theorem waitsInUse_examineWrite (x : Bool) (d : Dom) (a : Addr) (l : Lanes) (w : Word) (s : State) :
    waitsInUse (examineWrite x d a l w s) := by
  unfold examineWrite
  split
  · exact .inl (noneWaiting_dropWrite _ _)
  · split
    · exact .inl (noneWaiting_dropWrite _ _)
    · split
      · exact .inl (noneWaiting_placeNow d a l w s)
      · split
        · exact .inl (noneWaiting_dropWrite _ _)
        · split
          · next hd => exact waitsInUse_of_queue (queue_ne_nil_of_drainPending hd)
          · exact .inl (noneWaiting_dropWrite _ _)

theorem waitsInUse_examineCommit (x : Bool) (d : Dom) (tag : Word) (s : State) :
    waitsInUse (examineCommit x d tag s) := by
  unfold examineCommit
  split
  · exact .inl (noneWaiting_commitQueued d tag s)
  · split
    · exact .inl (noneWaiting_commitToBroken d _)
    · split
      · next hd => exact waitsInUse_of_queue (queue_ne_nil_of_drainPending hd)
      · exact .inl (noneWaiting_commitToBroken d _)

/-- An examination lets an access wait only while drain is pending (R28, R53), whatever it finds. -/
theorem waitsInUse_examine (x : Bool) (h : ActsForEnabled s) : waitsInUse (examine x s) := by
  unfold examine
  split
  · next p hp =>
    split
    · exact waitsInUse_examineWrite x _ _ _ _ s
    · exact waitsInUse_examineCommit x _ _ s
    · next hslot hwrite =>
      refine .inl fun q hq => ?_
      cases hp.symm.trans hq
      refine ⟨fun d hd => ?_, fun d tag hd => hslot d tag hd⟩
      obtain ⟨_, a, l, w, hdp, ha⟩ := h.space p d hp hd
      exact hwrite d a l w hdp hd ha
  · next hp => exact .inl (noneWaiting_of_not_inProgress hp)

/-- A change that touches neither the access in progress nor the groups. -/
theorem waitsInUse_of_same (port : t.host.port = s.host.port)
    (group : ∀ d, (t.domains.get d).group = (s.domains.get d).group) (queue : t.queue = s.queue) (h : waitsInUse s) :
    waitsInUse t := by
  refine h.imp (noneWaiting_of_same_port port) fun h => ?_
  have hu : usedEntries t = usedEntries s := by
    have g0 := group .i0
    have g1 := group .i1
    have g2 := group .i2
    have g3 := group .i3
    simp only [Four.get] at g0 g1 g2 g3
    simp only [usedEntries, openEntries, g0, g1, g2, g3, queue]
  rw [quiescent, hu, queue]
  exact h

theorem waitsInUse_setFlag (f : FlagId) (h : waitsInUse s) : waitsInUse (setFlag f s) :=
  waitsInUse_of_same (s := s) rfl (fun _ => rfl) rfl h

theorem waitsInUse_stagedWrite {d : Dom} {a : Addr} {l : Lanes} {w : Word} {hdp : Option (BitVec 2)} (bad : Bool)
    (h : ActsForEnabled s) (hacc : ∀ p, s.host.port = .inProgress p → p.access = .write a l w hdp)
    (hd : (s.domains.get d).enabled = true) (ha : a.toNat < journalBase s.straps) :
    waitsInUse (stagedWrite d a l w bad s) := by
  unfold stagedWrite
  split
  · exact .inl (noneWaiting_dropWrite _ _)
  · split
    · exact .inl (noneWaiting_dropWrite _ _)
    · split
      · exact .inl (noneWaiting_placeNow d a l w s)
      · exact waitsInUse_examine false (h.moves ((Moves.refl s).setHold_storeSpace hacc hd ha))

theorem waitsInUse_holdCommit {d : Dom} (tag : Word) (h : ActsForEnabled s)
    (hd : (s.domains.get d).enabled = true) : waitsInUse (holdCommit d tag s) := by
  have h1 : Moves s (modDomain d (fun x => { x with closing := true, autoPending := false, ageDue := false }) s) :=
    (Moves.refl s).modDomain (.settings rfl rfl rfl (by simp))
  exact waitsInUse_examine false (h.moves (h1.setHold_queueSlot tag (by rw [modDomain_get_same]; exact hd)))

theorem waitsInUse_commitCellWrite {d : Dom} (l : Lanes) (w : Word) (bad : Bool) (h : ActsForEnabled s)
    (hd : (s.domains.get d).enabled = true) : waitsInUse (commitCellWrite d l w bad s) := by
  unfold commitCellWrite
  split
  · exact .inl (noneWaiting_dropWrite _ _)
  · split
    · exact .inl (noneWaiting_dropWrite _ _)
    · split
      · exact .inl (noneWaiting_completeQuiet _)
      · unfold commitGroup
        split
        · exact .inl (noneWaiting_commitToBroken d s)
        · split
          · exact .inl (noneWaiting_commitQueued d w s)
          · exact waitsInUse_holdCommit w h hd

theorem waitsInUse_classifiedWrite {a : Addr} {l : Lanes} {w : Word} {hdp : Option (BitVec 2)} (h : ActsForEnabled s)
    (hacc : ∀ p, s.host.port = .inProgress p → p.access = .write a l w hdp) (hs : noneWaiting s) :
    waitsInUse (classifiedWrite (classify s a) a l w hdp s) := by
  unfold classifiedWrite
  split
  · exact .inl (noneWaiting_dropWrite _ _)
  · next hdrop =>
    split
    · next d hc => exact waitsInUse_commitCellWrite l w _ h (enabled_of_classify hc)
    · next d hc =>
      rw [hc] at hdrop
      exact waitsInUse_stagedWrite _ h hacc (enabled_of_not_dropped hdrop)
        (below_of_classify (by simp [hc]) (by simp [hc]) (by simp [hc]))
    · unfold passWrite
      split
      · exact .inl (noneWaiting_dropWrite _ _)
      · exact .inl (noneWaiting_of_same_port (s := setHold .passWrite s) rfl (noneWaiting_setHold s rfl))
    · exact .inl hs
    · exact .inl hs
    · exact .inl hs

theorem noneWaiting_holdForRead {k : Hold} (a : Addr) (s : State) (hk : k.waits = false) :
    noneWaiting (holdForRead k a s) :=
  noneWaiting_of_same_port (s := setHold k s) rfl (noneWaiting_setHold s hk)

theorem noneWaiting_classifiedRead (c : Class) (a : Addr) (s : State) : noneWaiting (classifiedRead c a s) := by
  cases c with
  | outside => exact noneWaiting_completeRead _ s
  | reserved => exact noneWaiting_completeRead _ s
  | stage d =>
    unfold classifiedRead
    dsimp only
    split
    · unfold stagedRead
      split
      · exact noneWaiting_completeRead _ _
      · exact noneWaiting_holdForRead a s rfl
    · exact noneWaiting_holdForRead a s rfl
  | commitCell d => exact noneWaiting_holdForRead a s rfl
  | pass => exact noneWaiting_holdForRead a s rfl
  | deny => exact noneWaiting_holdForRead a s rfl

theorem waitsInUse_presentAccess {a : Access} (h : ActsForEnabled s)
    (hacc : ∀ p, s.host.port = .inProgress p → p.access = a) (hs : noneWaiting s) :
    waitsInUse (presentAccess a s) := by
  unfold presentAccess
  split
  · exact .inl (noneWaiting_completeQuiet s)
  · exact .inl (noneWaiting_classifiedRead _ _ s)
  · split
    · exact .inl (noneWaiting_completeQuiet s)
    · exact waitsInUse_classifiedWrite h hacc hs

/-- An access that has just arrived, or was just released, is presented. -/
theorem waitsInUse_present {p : Progress} (h : ActsForEnabled s) (hp : p.hold = .deciding) :
    waitsInUse (presentAccess p.access (setHost (.inProgress p) s)) := by
  have hw : p.hold.waits = false := by rw [hp]; rfl
  refine waitsInUse_presentAccess (h.moves ((Moves.refl s).hostHeld hw)) (fun q hq => ?_) (noneWaiting_setHost s hw)
  cases hq
  rfl

theorem waitsInUse_arrive (a : Access) (h : ActsForEnabled s) : waitsInUse (arrive a s) := by
  unfold arrive
  split
  · exact .inl (noneWaiting_setHost s rfl)
  · exact waitsInUse_present
      (p := { access := a, hold := .deciding, count := 0, due := false, ended := false }) h rfl

theorem waitsInUse_settle (before : State) (h : ActsForEnabled s) (hs : waitsInUse s) : waitsInUse (settle before s) := by
  unfold settle
  split
  · have h1 : ActsForEnabled { s with host := { s.host with again := none } } :=
      h.moves ((Moves.refl s).note rfl rfl rfl rfl rfl)
    dsimp only
    split
    · exact waitsInUse_arrive _ h1
    · exact waitsInUse_of_same (s := s) rfl (fun _ => rfl) rfl hs
  · exact hs

theorem waitsInUse_releaseHeld (h : ActsForEnabled s) (hs : waitsInUse s) : waitsInUse (releaseHeld s) := by
  unfold releaseHeld
  split
  · next p _ =>
    split
    · exact waitsInUse_present (p := { p with hold := .deciding, count := 0, due := false }) h rfl
    · exact hs
  · exact hs

/-! ### The host's events -/

theorem waitsInUse_seeArrival (bus : HostBus) (h : ActsForEnabled s) (hs : waitsInUse s) :
    waitsInUse (seeArrival bus s) := by
  unfold seeArrival
  split
  · exact waitsInUse_arrive _ h
  · split
    · exact waitsInUse_of_same (s := s) rfl (fun _ => rfl) rfl hs
    · exact hs
  · exact hs

theorem waitsInUse_seeReturnIdle (hs : waitsInUse s) : waitsInUse (seeReturnIdle s) := by
  unfold seeReturnIdle
  split
  · exact .inl (noneWaiting_of_not_inProgress nofun)
  · exact .inl (noneWaiting_of_not_inProgress nofun)
  · exact hs
  · exact hs

/-- The access in progress goes on under the hold that it has. -/
theorem waitsInUse_goesOn {p q : Progress} (hp : s.host.port = .inProgress p) (hold : q.hold = p.hold)
    (hq : t.host.port = .inProgress q) (domains : t.domains = s.domains) (queue : t.queue = s.queue)
    (hs : waitsInUse s) : waitsInUse t := by
  refine hs.imp (fun hn r hr => ?_) fun hn => ?_
  · cases hq.symm.trans hr
    rw [hold]
    exact hn p hp
  · simp only [quiescent, usedEntries, openEntries, domains, queue] at hn ⊢
    exact hn

theorem waitsInUse_seeStrobesEnd (hs : waitsInUse s) : waitsInUse (seeStrobesEnd s) := by
  unfold seeStrobesEnd
  split
  · next p hp => exact waitsInUse_goesOn (q := { p with ended := true }) hp rfl rfl rfl rfl hs
  · exact hs
  · exact hs
  · exact hs

/-! ### The ends of array accesses -/

theorem waitsInUse_hostReadDone (w : Word) (hs : waitsInUse s) : waitsInUse (hostReadDone w s) := by
  unfold hostReadDone
  split
  · split
    · exact .inl (noneWaiting_completeRead _ _)
    · exact .inl (noneWaiting_completeRead _ _)
    · exact hs
  · exact hs

theorem waitsInUse_hostAccessDone (w : Word) (hs : waitsInUse s) : waitsInUse (hostAccessDone w s) := by
  unfold hostAccessDone
  split
  · exact .inl (noneWaiting_completeQuiet s)
  · exact waitsInUse_hostReadDone w hs

theorem waitsInUse_hostTimedOut (hs : waitsInUse s) : waitsInUse (hostTimedOut s) := by
  unfold hostTimedOut
  dsimp only
  split
  · exact .inl (noneWaiting_completeQuiet _)
  · exact .inl (noneWaiting_completeRead _ _)
  · exact .inl (noneWaiting_completeRead _ _)
  · exact waitsInUse_of_same (s := s) rfl (fun _ => rfl) rfl hs

theorem waitsInUse_goOn (e : EngineState) (hs : waitsInUse s) : waitsInUse (goOn e s) := by
  refine waitsInUse_of_same (s := s) (congrArg HostSide.port (host_requestEngine _)) (fun d => ?_) ?_ hs <;>
    (unfold goOn requestEngine; split <;> rfl)

theorem waitsInUse_enter (e : EngineState) (h : ActsForEnabled s) : waitsInUse (enter e s) :=
  waitsInUse_examine false (h.moves ((Moves.refl s).goOn e))

/-- A retire ends with an examination, whatever it has released (R52, R101). -/
theorem waitsInUse_retire (h : ActsForEnabled s) (hs : waitsInUse s) : waitsInUse (retire s) := by
  unfold retire
  split
  · exact hs
  · next g rest hq =>
    have h1 : Moves s { s with queue := rest } :=
      (Moves.refl s).subqueue rest (by rw [hq]; exact List.subset_cons_self g rest)
    have h2 := ((h1.setEngine .idle).modDomain (d := g.domain) (f := fun x => { x with appliedTag := g.tag })
      (.settings rfl rfl rfl id)).bump .groupsApplied
    dsimp only
    exact waitsInUse_examine false
      (h.moves ((((h2.setFlag .applied).flowAfterRelease _).completeSync_if g.sync).grantSlots).tryBegin)

theorem waitsInUse_copyingDone (i w : Nat) (h : ActsForEnabled s) (hs : waitsInUse s) :
    waitsInUse (copyingDone i w s) := by
  unfold copyingDone
  split
  · exact waitsInUse_goOn _ hs
  · split
    · exact waitsInUse_goOn _ hs
    · exact waitsInUse_enter _ h

theorem waitsInUse_markingDone (k : Nat) (h : ActsForEnabled s) (hs : waitsInUse s) : waitsInUse (markingDone k s) := by
  unfold markingDone
  split
  · exact waitsInUse_enter _ h
  · split
    · exact waitsInUse_goOn _ hs
    · exact waitsInUse_goOn _ hs

theorem waitsInUse_homingDone (i : Nat) (h : ActsForEnabled s) (hs : waitsInUse s) : waitsInUse (homingDone i s) := by
  unfold homingDone
  split
  · exact waitsInUse_goOn _ hs
  · split
    · exact waitsInUse_enter _ h
    · exact waitsInUse_retire h hs

theorem waitsInUse_endRecovery (e : EngineState) (h : ActsForEnabled s) (hs : waitsInUse s) :
    waitsInUse (endRecovery e s) :=
  waitsInUse_releaseHeld (h.moves ((Moves.refl s).setEngine e)) (waitsInUse_of_same (s := s) rfl (fun _ => rfl) rfl hs)

theorem waitsInUse_failRecovery (c : BlockCause) (h : ActsForEnabled s) (hs : waitsInUse s) :
    waitsInUse (failRecovery c s) :=
  waitsInUse_endRecovery _ (h.moves ((Moves.refl s).setFlag .recfail))
    (waitsInUse_of_same (s := s) rfl (fun _ => rfl) rfl hs)

theorem waitsInUse_replayOn (hd : List Word) (r : List JournalRecord) (hs : waitsInUse s) :
    waitsInUse (replayOn hd r s) := by
  unfold replayOn
  split
  · exact waitsInUse_goOn _ hs
  · exact waitsInUse_goOn _ hs

theorem waitsInUse_headerRead (hd : List Word) (h : ActsForEnabled s) (hs : waitsInUse s) :
    waitsInUse (headerRead hd s) := by
  unfold headerRead
  split
  · exact waitsInUse_goOn _ hs
  · split
    · exact waitsInUse_goOn _ hs
    · exact waitsInUse_failRecovery _ h hs

theorem waitsInUse_recordRead (hd ws : List Word) (h : ActsForEnabled s) (hs : waitsInUse s) :
    waitsInUse (recordRead hd ws s) := by
  unfold recordRead
  split
  · exact waitsInUse_goOn _ hs
  · split
    · exact waitsInUse_replayOn hd _ hs
    · exact waitsInUse_failRecovery _ h hs

theorem waitsInUse_recoveryDone (r : Recovery) (w : Word) (h : ActsForEnabled s) (hs : waitsInUse s) :
    waitsInUse (recoveryDone r w s) := by
  cases r with
  | marker =>
    unfold recoveryDone
    dsimp only
    split
    · exact waitsInUse_headerRead _ h hs
    · exact waitsInUse_endRecovery _ h hs
  | header read => exact waitsInUse_headerRead _ h hs
  | records hd read => exact waitsInUse_recordRead hd _ h hs
  | replay hd rest => exact waitsInUse_replayOn hd _ hs
  | finish hd =>
    exact waitsInUse_endRecovery _ (h.moves (((Moves.refl s).withEngine _).setFlag .recovered))
      (waitsInUse_of_same (s := s) rfl (fun _ => rfl) rfl hs)

theorem waitsInUse_engineAccessDone (w : Word) (h : ActsForEnabled s) (hs : waitsInUse s) :
    waitsInUse (engineAccessDone w s) := by
  unfold engineAccessDone
  split
  · exact waitsInUse_recoveryDone _ w h hs
  · split
    · exact waitsInUse_of_same (s := s) rfl (fun _ => rfl) rfl hs
    · exact hs
  · exact hs
  · exact waitsInUse_copyingDone _ _ h hs
  · exact waitsInUse_markingDone _ h hs
  · exact waitsInUse_homingDone _ h hs
  · exact waitsInUse_retire h hs
  · exact hs

theorem waitsInUse_fault (p : Phase) (i : Nat) (h : ActsForEnabled s) : waitsInUse (fault p i s) :=
  waitsInUse_examine false (h.moves (((Moves.refl s).setFlag .fault).setEngine _))

theorem waitsInUse_engineTimedOut (h : ActsForEnabled s) (hs : waitsInUse s) : waitsInUse (engineTimedOut s) := by
  have h1 := h.moves (((Moves.refl s).withArrsrc .engine).setFlag .array)
  have hs1 := waitsInUse_of_same (t := setFlag .array { s with port := { s.port with arrsrc := .engine } }) rfl
    (fun _ => rfl) rfl hs
  unfold engineTimedOut
  dsimp only
  split
  · exact waitsInUse_failRecovery _ h1 hs1
  · split
    · exact waitsInUse_of_same (s := s) rfl (fun _ => rfl) rfl hs
    · exact waitsInUse_of_same (s := s) rfl (fun _ => rfl) rfl hs
  · exact hs1
  · exact waitsInUse_fault _ _ h1
  · exact waitsInUse_fault _ _ h1
  · exact waitsInUse_fault _ _ h1
  · exact waitsInUse_fault _ _ h1
  · exact hs1

theorem waitsInUse_accessComplete (ad : Option Word) (h : ActsForEnabled s) (hs : waitsInUse s) :
    waitsInUse (accessComplete ad s) := by
  unfold accessComplete
  split
  · exact hs
  · have h1 : ∀ m, ActsForEnabled { s with array := m, port := s.port.finish } :=
      fun m => h.moves ((Moves.refl s).finishPort.note rfl rfl rfl rfl rfl)
    have hs1 : ∀ m, waitsInUse { s with array := m, port := s.port.finish } :=
      fun m => waitsInUse_of_same (s := s) rfl (fun _ => rfl) rfl hs
    dsimp only
    split
    · exact waitsInUse_hostAccessDone _ (hs1 _)
    · exact waitsInUse_engineAccessDone _ (h1 _) (hs1 _)
    · exact waitsInUse_of_same (s := s) rfl (fun _ => rfl) rfl hs

theorem waitsInUse_accessTimeout (left : Option Word) (h : ActsForEnabled s) (hs : waitsInUse s) :
    waitsInUse (accessTimeout left s) := by
  unfold accessTimeout
  split
  · exact hs
  · split
    · have h1 : ActsForEnabled { s with array := interrupted left s, port := s.port.finish } :=
        h.moves ((Moves.refl s).finishPort.note rfl rfl rfl rfl rfl)
      have hs1 : waitsInUse { s with array := interrupted left s, port := s.port.finish } :=
        waitsInUse_of_same (s := s) rfl (fun _ => rfl) rfl hs
      dsimp only
      split
      · exact waitsInUse_hostTimedOut hs1
      · exact waitsInUse_engineTimedOut h1 hs1
      · exact waitsInUse_of_same (s := s) rfl (fun _ => rfl) rfl hs
    · exact hs

/-! ### Time and power -/

/-- Where the engine begins the head group an examination follows; else nothing changes. -/
theorem waitsInUse_beginAndExamine (h : ActsForEnabled s) (hs : waitsInUse s) : waitsInUse (beginAndExamine s) := by
  unfold beginAndExamine
  split
  · exact waitsInUse_examine false (h.moves (Moves.refl s).beginHead)
  · exact hs

theorem waitsInUse_tickHold (hs : waitsInUse s) : waitsInUse (tickHold s) := by
  unfold tickHold
  split
  · next p hp =>
    split
    · exact waitsInUse_goesOn
        (q := { p with count := p.count + 1, due := limitReached s.host.holdlim (p.count + 1) }) hp rfl rfl rfl rfl hs
    · exact hs
  · exact hs

theorem group_tickAge (s : State) (d : Dom) : (tickAge s d).group = (s.domains.get d).group := by
  unfold tickAge
  dsimp only
  split <;> rfl

theorem host_tickArray (s : State) : (tickArray s).host = s.host := by
  unfold tickArray
  split <;> rfl

theorem queue_tickArray (s : State) : (tickArray s).queue = s.queue := by
  unfold tickArray
  split <;> rfl

theorem domains_tickHold (s : State) : (tickHold s).domains = s.domains := by
  unfold tickHold
  repeat' split
  all_goals rfl

theorem waitsInUse_tickCounts (hs : waitsInUse s) : waitsInUse (tickCounts s) := by
  refine waitsInUse_of_same (s := tickHold s) (congrArg HostSide.port (host_tickArray _)) (fun d => ?_)
    (queue_tickArray _) (waitsInUse_tickHold hs)
  rw [domains_tickHold]
  exact (congrArg Domain.group (Four.get_ofFn _ d)).trans (group_tickAge s d)

theorem waitsInUse_holdExpiry (h : ActsForEnabled s) (hs : waitsInUse s) : waitsInUse (holdExpiry s) := by
  unfold holdExpiry
  split
  · split
    · split
      · exact .inl (noneWaiting_completeQuiet _)
      · exact waitsInUse_examine true h
    · exact hs
  · exact hs

theorem group_modDomain {f : Domain → Domain} (d : Dom) (s : State) (hf : ∀ x, (f x).group = x.group) (e : Dom) :
    ((modDomain d f s).domains.get e).group = (s.domains.get e).group := by
  rw [modDomain_domains, Four.get_set]
  split
  · next he => rw [he, hf]
  · rfl

theorem waitsInUse_modDomain {f : Domain → Domain} (d : Dom) (hf : ∀ x, (f x).group = x.group) (hs : waitsInUse s) :
    waitsInUse (modDomain d f s) := waitsInUse_of_same (s := s) rfl (group_modDomain d s hf) rfl hs

theorem queue_queueGroup_ne_nil (d : Dom) (tag : Word) (b : Bool) (s : State) : (queueGroup d tag b s).queue ≠ [] :=
  List.append_ne_nil_of_right_ne_nil _ (List.cons_ne_nil _ _)

theorem waitsInUse_ageExpiry (d : Dom) (h : ActsForEnabled s) (hs : waitsInUse s) : waitsInUse (ageExpiry d s) := by
  have m : Moves s (setFlag .age (modDomain d (fun x => { x with ageDue := false }) s)) :=
    ((Moves.refl s).modDomain (.settings rfl rfl rfl (by simp))).setFlag .age
  have hs1 : waitsInUse (setFlag .age (modDomain d (fun x => { x with ageDue := false }) s)) :=
    waitsInUse_setFlag .age (waitsInUse_modDomain d (fun _ => rfl) hs)
  unfold ageExpiry
  split
  · next hdue =>
    dsimp only
    split
    · exact hs1
    · split
      · rw [queueGroup_of_ageExpiry]
        exact waitsInUse_beginAndExamine
          (h.moves (((Moves.refl s).queueGroup _ false (.inr (.inr hdue))).setFlag .age))
          (waitsInUse_of_queue (queue_queueGroup_ne_nil d _ false s))
      · exact waitsInUse_modDomain d (fun _ => rfl) hs1
    · exact waitsInUse_examine false (h.moves (m.breakDomain d .age))
  · exact hs

theorem waitsInUse_takeExpiry (e : Expiry) (h : ActsForEnabled s) (hs : waitsInUse s) :
    waitsInUse (takeExpiry s e) := by
  refine waitsInUse_settle s (h.moves ((Moves.refl s).expire e)) ?_
  cases e with
  | hold => exact waitsInUse_holdExpiry h hs
  | array left => exact waitsInUse_accessTimeout left h hs
  | age d => exact waitsInUse_ageExpiry d h hs

/-- At entry to POWER_LOW no access goes on waiting (R161). -/
theorem noneWaiting_endHeldByPower (s : State) : noneWaiting (endHeldByPower s) := by
  unfold endHeldByPower
  split
  · exact noneWaiting_dropWrite _ _
  · exact noneWaiting_dropWrite _ _
  · exact noneWaiting_completeQuiet _
  · next hspace hslot _ =>
    intro p hp
    have hk : heldFor s = some p.hold := by simp [heldFor, hp]
    exact ⟨fun d hd => hspace d (hk.trans (congrArg some hd)), fun d tag hd => hslot d tag (hk.trans (congrArg some hd))⟩

theorem waitsInUse_samplePwarn (low : Bool) (h : ActsForEnabled s) (hs : waitsInUse s) :
    waitsInUse (samplePwarn low s) := by
  have same : ∀ p, waitsInUse { s with power := p } := fun p => waitsInUse_of_same (s := s) rfl (fun _ => rfl) rfl hs
  unfold samplePwarn
  dsimp only
  split
  · split
    · exact waitsInUse_beginAndExamine
        (h.moves ((((Moves.refl s).withPower _).withPower _).setFlag .powerok))
        (waitsInUse_of_same (s := s) rfl (fun _ => rfl) rfl hs)
    · exact same _
  · split
    · exact .inl (noneWaiting_endHeldByPower _)
    · exact same _

end InUse

end Sys2Proof.Machine
end

section
/-! PROOFS. The same for ticks, for the management writes, and so for every step. -/

namespace Sys2Proof.Machine

section Writes

variable {s t : State}

theorem waitsInUse_tickStep (low : Bool) (early : List Expiry) (h : ActsForEnabled s) (hs : waitsInUse s) :
    waitsInUse (tickStep low early s) := by
  have fold : ∀ (u : State), ActsForEnabled u → waitsInUse u → waitsInUse (early.foldl takeExpiry u) := by
    induction early with
    | nil => exact fun u _ hu => hu
    | cons e es ih => exact fun u h hu => ih _ (h.moves ((Moves.refl u).takeExpiry e)) (waitsInUse_takeExpiry e h hu)
  have hc := h.moves (Moves.refl s).tickCounts
  have h1 := hc.moves ((Moves.refl _).foldl_takeExpiry early)
  exact waitsInUse_settle _ (h1.moves ((Moves.refl _).samplePwarn low))
    (waitsInUse_samplePwarn low h1 (fold _ hc (waitsInUse_tickCounts hs)))

theorem waitsInUse_takeEvent (e : Event) (h : ActsForEnabled s) (hs : waitsInUse s) : waitsInUse (takeEvent s e) := by
  cases e with
  | hostArrival bus => exact waitsInUse_seeArrival bus h hs
  | hostReturnIdle => exact waitsInUse_seeReturnIdle hs
  | hostStrobesEndEarly => exact waitsInUse_seeStrobesEnd hs
  | holdExpiry => exact waitsInUse_takeExpiry .hold h hs
  | arrayComplete ad =>
    exact waitsInUse_settle s (h.moves ((Moves.refl s).accessComplete ad)) (waitsInUse_accessComplete ad h hs)
  | arrayTimeout left => exact waitsInUse_takeExpiry (.array left) h hs
  | tick low early => exact waitsInUse_tickStep low early h hs
  | ageExpiry d => exact waitsInUse_takeExpiry (.age d) h hs

/-! ### Management writes -/

/-- A change of blocks other than the domains, the queue and the Host Port's state. -/
theorem waitsInUse_of_sameDomains (port : t.host.port = s.host.port) (domains : t.domains = s.domains)
    (queue : t.queue = s.queue) (hs : waitsInUse s) : waitsInUse t :=
  waitsInUse_of_same port (fun d => by rw [domains]) queue hs

theorem waitsInUse_windowWrite (i : Fin 16) (w : Window) (hs : waitsInUse s) : waitsInUse (windowWrite i w s).2 :=
  keep_ite hs (keep_ite hs (waitsInUse_of_sameDomains (s := s) rfl rfl rfl hs))

theorem waitsInUse_hactWrite (data : Word) (hs : waitsInUse s) : waitsInUse (hactWrite data s).2 := by
  unfold hactWrite
  split
  · exact hs
  · exact keep_ite hs (waitsInUse_of_sameDomains (s := s) rfl rfl rfl hs)

theorem waitsInUse_defactWrite (data : Word) (hs : waitsInUse s) : waitsInUse (defactWrite data s).2 := by
  unfold defactWrite
  split
  · exact hs
  · exact keep_ite hs (waitsInUse_of_sameDomains (s := s) rfl rfl rfl hs)

theorem waitsInUse_winbaseWrite (i : Fin 16) (data : Word) (hs : waitsInUse s) :
    waitsInUse (winbaseWrite i data s).2 := by
  unfold winbaseWrite
  split
  · exact hs
  · exact waitsInUse_windowWrite i _ hs

theorem waitsInUse_abandonHead (h : ActsForEnabled s) (hs : waitsInUse s) : waitsInUse (abandonHead s) := by
  unfold abandonHead
  split
  · exact hs
  · next g rest hq =>
    have h1 : Moves s { s with queue := rest } :=
      (Moves.refl s).subqueue rest (by rw [hq]; exact List.subset_cons_self g rest)
    dsimp only
    exact waitsInUse_examine false
      (h.moves ((((h1.setEngine .idle).flowAfterRelease _).completeSync_if g.sync).grantSlots).tryBegin)

theorem waitsInUse_stageClear (h : ActsForEnabled s) : waitsInUse (stageClear s) := by
  have hq : keptRecords s ⊆ (consumeHeldCommit (breakAll .clear s)).queue := by
    rw [queue_consumeHeldCommit, queue_breakAll]
    exact keptRecords_subset s
  exact waitsInUse_examine false (h.moves
    (((((Moves.refl s).breakAll .clear).consumeHeldCommit.subqueue _ hq).completeSync_if _).flowAfterRelease _))

theorem waitsInUse_stageClearCmd (h : ActsForEnabled s) (hs : waitsInUse s) : waitsInUse (stageClearCmd s).2 := by
  unfold stageClearCmd
  split
  · exact hs
  · exact hs
  all_goals exact waitsInUse_stageClear h

theorem waitsInUse_holdOffCmd (h : ActsForEnabled s) (hs : waitsInUse s) : waitsInUse (holdOffCmd s).2 := by
  unfold holdOffCmd
  split
  · exact waitsInUse_beginAndExamine (h.moves ((Moves.refl s).withEngine _))
      (waitsInUse_of_sameDomains (s := s) rfl rfl rfl hs)
  · exact hs

theorem waitsInUse_ecmdWrite (code : Word) (h : ActsForEnabled s) (hs : waitsInUse s) :
    waitsInUse (ecmdWrite code s).2 := by
  unfold ecmdWrite
  split
  · exact waitsInUse_of_sameDomains (s := s) rfl rfl rfl hs
  · exact waitsInUse_holdOffCmd h hs
  · unfold retryCmd
    split
    · exact waitsInUse_enter _ h
    · exact hs
  · unfold abandonHeadCmd
    split
    · exact waitsInUse_abandonHead h hs
    · exact hs
  · exact waitsInUse_stageClearCmd h hs
  · unfold recoverRetryCmd
    split
    · split
      · exact hs
      · exact waitsInUse_goOn _ (waitsInUse_of_sameDomains (s := s) rfl rfl rfl hs)
    · exact hs
  · unfold journalDiscardCmd
    split
    · split
      · exact hs
      · exact waitsInUse_goOn (.blocked _ true) hs
    · exact hs
  · exact hs

theorem waitsInUse_dctlWrite (d : Dom) (data : Word) (hs : waitsInUse s) : waitsInUse (dctlWrite d data s).2 := by
  obtain e | ⟨act, e | ⟨_, e⟩ | ⟨_, e⟩⟩ := dctlWrite_cases d data s
  · rw [e]
    exact hs
  all_goals
    rw [e]
    exact waitsInUse_modDomain d (fun _ => rfl) hs

theorem waitsInUse_cchiWrite (d : Dom) (data : Word) (hs : waitsInUse s) : waitsInUse (cchiWrite d data s).2 := by
  obtain e | ⟨_, _, e⟩ := cchiWrite_cases d data s
  · rw [e]
    exact hs
  · rw [e]
    exact waitsInUse_modDomain d (fun _ => rfl) hs

theorem waitsInUse_writeReg (r : Reg) (data : Word) (h : ActsForEnabled s) (hs : waitsInUse s) :
    waitsInUse (writeReg r data s).2 := by
  cases r with
  | ecmd => exact waitsInUse_ecmdWrite data h hs
  | stalllvl => exact keep_ite hs (waitsInUse_examine false (h.moves ((Moves.refl s).withStore _).flowRetest))
  | resumelvl => exact keep_ite hs (waitsInUse_examine false (h.moves ((Moves.refl s).withStore _).flowRetest))
  | holdlim => exact keep_ite hs (waitsInUse_of_sameDomains (s := s) rfl rfl rfl hs)
  | arrto => exact keep_ite hs (waitsInUse_of_sameDomains (s := s) rfl rfl rfl hs)
  | starve => exact keep_ite hs (waitsInUse_of_sameDomains (s := s) rfl rfl rfl hs)
  | agechain => exact keep_ite hs (waitsInUse_of_sameDomains (s := s) rfl rfl rfl hs)
  | hact => exact waitsInUse_hactWrite data hs
  | defact => exact waitsInUse_defactWrite data hs
  | jaddr => exact keep_ite hs (keep_ite hs (waitsInUse_of_sameDomains (s := s) rfl rfl rfl hs))
  | hset k => exact keep_ite hs (waitsInUse_of_sameDomains (s := s) rfl rfl rfl hs)
  | dctl d => exact waitsInUse_dctlWrite d data hs
  | ceil d => exact keep_ite hs (keep_ite hs (waitsInUse_modDomain d (fun _ => rfl) hs))
  | cclo d => exact waitsInUse_modDomain d (fun _ => rfl) hs
  | cchi d => exact waitsInUse_cchiWrite d data hs
  | agerld d => exact keep_ite hs (waitsInUse_modDomain d (fun _ => rfl) hs)
  | winbase i => exact waitsInUse_winbaseWrite i data hs
  | winlim i => exact waitsInUse_windowWrite i _ hs
  | _ => exact waitsInUse_of_sameDomains (s := s) rfl rfl rfl hs

/-! ### Enabling, disabling and cells -/

/-- No conflict: every other enabled domain has another cell (R14, R15). -/
theorem cellConflict_eq_false_iff (s : State) (d : Dom) (a : Addr) :
    cellConflict s d a = false ↔ ∀ e, e ≠ d → (s.domains.get e).enabled = true → (s.domains.get e).cell ≠ a := by
  constructor
  · intro h e hne he hc
    have : cellConflict s d a = true :=
      List.any_eq_true.mpr ⟨e, by cases e <;> decide, by simp [hne, he, hc]⟩
    rw [this] at h
    cases h
  · intro h
    refine List.any_eq_false.mpr fun e _ hc => ?_
    simp only [Bool.and_eq_true, bne_iff_ne, beq_iff_eq] at hc
    obtain ⟨⟨hne, he⟩, hc⟩ := hc
    exact h e hne he hc

/-- One domain changes, and where it is enabled then no other enabled domain has its cell. -/
theorem cellsDistinct_modDomain {d : Dom} {f : Domain → Domain} (h : cellsDistinct s)
    (hf : (f (s.domains.get d)).enabled = true → cellConflict s d (f (s.domains.get d)).cell = false) :
    cellsDistinct (modDomain d f s) := by
  intro a b hne ha hb
  rw [modDomain_domains, Four.get_set] at ha hb ⊢
  rw [Four.get_set]
  by_cases hda : a = d
  · subst hda
    rw [if_pos rfl] at ha ⊢
    rw [if_neg hne.symm] at hb ⊢
    exact fun hc => (cellConflict_eq_false_iff s a _).mp (hf ha) b hne.symm hb hc.symm
  · rw [if_neg hda] at ha ⊢
    by_cases hdb : b = d
    · subst hdb
      rw [if_pos rfl] at hb ⊢
      exact (cellConflict_eq_false_iff s b _).mp (hf hb) a hne ha
    · rw [if_neg hdb] at hb ⊢
      exact h a b hne ha hb

/-- A change of one domain under which the accesses that wait, and the due expiries, keep an enabled domain. -/
theorem ActsForEnabled.modDomain {d : Dom} {f : Domain → Domain} (h : ActsForEnabled s)
    (enabled : noneWaiting s ∨ ((s.domains.get d).enabled = true → (f (s.domains.get d)).enabled = true))
    (due : (f (s.domains.get d)).ageDue = true → (f (s.domains.get d)).enabled = true)
    (distinct : (f (s.domains.get d)).enabled = true → cellConflict s d (f (s.domains.get d)).cell = false) :
    ActsForEnabled (modDomain d f s) := by
  have kept : ∀ e, ¬noneWaiting s → (s.domains.get e).enabled = true →
      ((Machine.modDomain d f s).domains.get e).enabled = true := by
    intro e hw he
    rw [modDomain_domains, Four.get_set]
    split
    · next hed => exact (enabled.resolve_left hw) (hed ▸ he)
    · exact he
  refine ⟨fun p e hp hk => ?_, fun p e tag hp hk => ?_, fun e he => ?_, cellsDistinct_modDomain h.distinct distinct⟩
  · obtain ⟨he, ha⟩ := h.space p e hp hk
    exact ⟨kept e (fun hw => (hw p hp).1 e hk) he, ha⟩
  · exact kept e (fun hw => (hw p hp).2 e tag hk) (h.slot p e tag hp hk)
  · rw [modDomain_domains, Four.get_set] at he ⊢
    split at he
    · next hed => rw [if_pos hed]; exact due he
    · next hed => rw [if_neg hed]; exact h.due e he

theorem ActsForEnabled.dctlWrite (d : Dom) (data : Word) (h : ActsForEnabled s) (hs : waitsInUse s) :
    ActsForEnabled (dctlWrite d data s).2 := by
  obtain e | ⟨act, e | ⟨hc, e⟩ | ⟨hq, e⟩⟩ := dctlWrite_cases d data s
  · rw [e]
    exact h
  · rw [e]
    exact h.moves ((Moves.refl s).modDomain (domainMove_withOptions data act _))
  · rw [e]
    exact h.modDomain (.inr fun _ => rfl) (fun _ => rfl) fun _ => hc
  · rw [e]
    have hn : noneWaiting s := hs.resolve_right (by rw [hq]; nofun)
    exact h.modDomain (.inl hn) nofun nofun

theorem ActsForEnabled.cchiWrite (d : Dom) (data : Word) (h : ActsForEnabled s) :
    ActsForEnabled (cchiWrite d data s).2 := by
  obtain e | ⟨_, hc, e⟩ := cchiWrite_cases d data s
  · rw [e]
    exact h
  · rw [e]
    exact h.modDomain (.inr id) (h.due d) hc

theorem ActsForEnabled.writeReg (r : Reg) (data : Word) (h : ActsForEnabled s) (hs : waitsInUse s) :
    ActsForEnabled (writeReg r data s).2 := by
  by_cases hd : ∃ d, r = .dctl d
  · obtain ⟨d, rfl⟩ := hd
    exact h.dctlWrite d data hs
  · by_cases hc : ∃ d, r = .cchi d
    · obtain ⟨d, rfl⟩ := hc
      exact h.cchiWrite d data
    · exact h.moves ((Moves.refl s).writeReg data (fun d e => hd ⟨d, e⟩) (fun d e => hc ⟨d, e⟩))

end Writes

/-! ### Every step -/

/-- The invariant under which commit cells stay distinct: what acts, acts for enabled domains, and what waits keeps the part
from quiescence, hence its domain from being disabled. -/
def CellsKept (s : State) : Prop := ActsForEnabled s ∧ waitsInUse s

theorem domains_cold (st : Straps) (held : Bool) (array : List Host.Cell) (pending : List Instr) (d : Dom) :
    (State.cold st held array pending).domains.get d = Domain.cold := Four.get_ofFn _ d

theorem cellsKept_cold (st : Straps) (held : Bool) (array : List Host.Cell) (pending : List Instr) :
    CellsKept (requestEngine (State.cold st held array pending)) := by
  have off : ∀ d, ((State.cold st held array pending).domains.get d).enabled = false := fun d => by
    rw [domains_cold]
    rfl
  have h : ActsForEnabled (State.cold st held array pending) := by
    refine ⟨fun p d hp => (nomatch hp), fun p d tag hp => (nomatch hp), fun d hd => ?_, fun d e _ hd => ?_⟩
    · rw [domains_cold] at hd
      cases hd
    · rw [off d] at hd
      cases hd
  refine ⟨h.moves (Moves.refl _).requestEngine, .inl (noneWaiting_of_not_inProgress fun p hp => ?_)⟩
  rw [host_requestEngine] at hp
  cases hp

theorem cellsKept_keptByCourses : KeptByCourses CellsKept where
  mgmt s _ h := ⟨h.1.moves ((Moves.refl s).note rfl rfl rfl rfl rfl), waitsInUse_of_sameDomains rfl rfl rfl h.2⟩
  pending s _ h := ⟨h.1.moves ((Moves.refl s).note rfl rfl rfl rfl rfl), waitsInUse_of_sameDomains rfl rfl rfl h.2⟩
  event s e h := ⟨h.1.moves ((Moves.refl s).takeEvent e), waitsInUse_takeEvent e h.1 h.2⟩
  settle before s h := ⟨h.1.moves ((Moves.refl s).settle before), waitsInUse_settle before h.1 h.2⟩
  reset st held array pending := cellsKept_cold st held array pending
  writeReg _ r data h := ⟨h.1.writeReg r data h.2, waitsInUse_writeReg r data h.1 h.2⟩

/-- A domain that takes writes is enabled. -/
theorem enabled_of_takesWrites {s : State} {d : Dom} (h : takesWrites s d) : (s.domains.get d).enabled = true :=
  (Domain.enabled_iff _).mpr (by obtain h | h := h <;> rw [h] <;> nofun)

/-- Throttled under a RESUMELVL of at most 511, the store holds an entry (R48, R49). -/
theorem not_quiescent_of_throttled {s : State} (hl : limitsSound s) (hst : storeSound s)
    (h : s.store.flow = .throttled) : quiescent s = false := by
  obtain ⟨_, _, hresume, _⟩ := hl
  obtain ⟨hsum, _, _, hthr⟩ := hst
  have hfree := hthr h
  have hused : usedEntries s ≠ 0 := by omega
  simp [quiescent, hused]

theorem cellsKept_of_sound {s : State} (hl : limitsSound s) (hst : storeSound s) (hd : domainsSound s)
    (hh : hostSound s) (hc : cellsDistinct s) : CellsKept s := by
  obtain ⟨hhold, _⟩ := hh
  obtain ⟨hdom, _⟩ := hd
  have space : ∀ p d, s.host.port = .inProgress p → p.hold = .storeSpace d →
      takesWrites s d ∧ s.store.flow = .throttled ∧ ∃ a l w hdp, p.access = .write a l w hdp := by
    intro p d hp hk
    have h := hhold p hp
    rw [holdSound, hk] at h
    obtain ⟨htake, hflow, _, a, l, w, hdp, ha, _⟩ := h
    exact ⟨htake, hflow, a, l, w, hdp, ha⟩
  have slot : ∀ p d tag, s.host.port = .inProgress p → p.hold = .queueSlot d tag →
      takesWrites s d ∧ s.queue.length = 32 := by
    intro p d tag hp hk
    have h := hhold p hp
    rw [holdSound, hk] at h
    obtain ⟨htake, _, hlen, _⟩ := h
    exact ⟨htake, hlen⟩
  refine ⟨⟨fun p d hp hk => ?_, fun p d tag hp hk => ?_, fun d hdue => ?_, hc⟩, ?_⟩
  · obtain ⟨htake, _, ha⟩ := space p d hp hk
    exact ⟨enabled_of_takesWrites htake, ha⟩
  · exact enabled_of_takesWrites (slot p d tag hp hk).1
  · obtain ⟨_, _, _, _, _, _, _, _, _, _, _, hdue'⟩ := hdom d
    exact enabled_of_opened (hdue' hdue).1
  · by_contra hn
    obtain ⟨hn, hq⟩ := not_or.mp hn
    refine hn fun p hp => ⟨fun d hk => ?_, fun d tag hk => ?_⟩
    · exact hq (not_quiescent_of_throttled hl hst (space p d hp hk).2.1)
    · refine hq (not_quiescent_of_queue fun he => ?_)
      have hlen := (slot p d tag hp hk).2
      rw [he] at hlen
      cases hlen

/-- Settles O60: no event changes a cell or the enabling, since it acts for enabled domains alone; CCHI[d] and an enabling
refuse a conflict (R14, R15); a disabling, which needs quiescence, finds no access that waits for its domain. -/
theorem stepsKeepCellsDistinct : Obligations.StepsKeepCellsDistinct := by
  intro s t _ hl hst hd hh hc h
  exact (cellsKept_keptByCourses.step h (cellsKept_of_sound hl hst hd hh hc)).1.distinct

end Sys2Proof.Machine
end

section
/-! PROOFS. The writes of the classifier's and the domains' registers: what each effect answers, and the frame around it. -/

namespace Sys2Proof.Machine

section Writes

variable {s : State}

/-- Quiescence as the management writes test it is the manual's: FREE reads 512 and no group is queued (R11). -/
theorem quiescent_iff_isQuiescent (s : State) : quiescent s = true ↔ isQuiescent s := by
  have hfree : freeCount s = 512 ↔ usedEntries s = 0 := by
    simp only [freeCount, Config.storeEntries]
    omega
  rw [quiescent_eq_true_iff, isQuiescent, hfree]

theorem quiescent_eq_false (h : ¬isQuiescent s) : quiescent s = false :=
  Bool.eq_false_iff.mpr fun hq => h ((quiescent_iff_isQuiescent s).mp hq)

/-! ### The window table -/

theorem windowWrite_range {i : Fin 16} {w : Window} (h : w.enable = true ∧ w.limit < w.base) :
    windowWrite i w s = (.range, s) := if_pos h

theorem windowWrite_busy {i : Fin 16} {w : Window} (h : ¬(w.enable = true ∧ w.limit < w.base))
    (hq : ¬isQuiescent s) : windowWrite i w s = (.busy, s) := by
  simp [windowWrite, h, quiescent_eq_false hq]

theorem windowWrite_ok {i : Fin 16} {w : Window} (h : ¬(w.enable = true ∧ w.limit < w.base)) (hq : isQuiescent s) :
    windowWrite i w s = (.ok, { s with cl := { s.cl with windows := s.cl.windows.set i w } }) := by
  simp [windowWrite, h, (quiescent_iff_isQuiescent s).mpr hq]

/-- A code that names a kind is its kind's code. -/
theorem windowKindOf_code (k : WindowKind) : windowKindOf k.code = some k := by cases k <;> rfl

theorem winbaseWrite_of_kind {i : Fin 16} {data : Word} {k : WindowKind} (h : data.extractLsb' 12 2 = k.code) :
    winbaseWrite i data s
      = windowWrite i { s.cl.windows[i] with enable := data.getLsbD 15, kind := k, base := data.setWidth 12 } s := by
  rw [winbaseWrite, h, windowKindOf_code]

theorem winlimWrite_eq (i : Fin 16) (data : Word) (s : State) :
    winlimWrite i data s
      = windowWrite i { s.cl.windows[i] with
          domain := Ix4.ofBits (data.extractLsb' 12 2), limit := data.setWidth 12 } s := rfl

/-- The entry written stands in the table, every other one stays. -/
theorem windows_set (v : Vector Window 16) (i : Fin 16) (w : Window) :
    (v.set i w)[i] = w ∧ ∀ j : Fin 16, j ≠ i → (v.set i w)[j] = v[j] :=
  ⟨Vector.getElem_set_self i.isLt, fun j hj => Vector.getElem_set_ne i.isLt j.isLt fun e => hj (Fin.ext e.symm)⟩

/-- The enable bit, the kind and the base page of a WINBASE word read back, the reserved bit 14 as 0 (R187). -/
theorem winbaseWord_fields (data : Word) :
    BitVec.ofBool (data.getLsbD 15) ++ 0#1 ++ data.extractLsb' 12 2 ++ data.setWidth 12 = data &&& 0xBFFF#16 := by
  refine BitVec.eq_of_getLsbD_eq fun n hn => ?_
  simp only [BitVec.getLsbD_append, BitVec.getLsbD_and, BitVec.getLsbD_setWidth, BitVec.getLsbD_extractLsb',
    BitVec.getLsbD_ofBool]
  interval_cases n <;> simp

/-- The domain and the limit page of a WINLIM word read back, the reserved bits 15 and 14 as 0 (R187). -/
theorem winlimWord_fields (data : Word) :
    0#2 ++ data.extractLsb' 12 2 ++ data.setWidth 12 = data &&& 0x3FFF#16 := by
  refine BitVec.eq_of_getLsbD_eq fun n hn => ?_
  simp only [BitVec.getLsbD_append, BitVec.getLsbD_and, BitVec.getLsbD_setWidth, BitVec.getLsbD_extractLsb',
    BitVec.getLsbD_zero]
  interval_cases n <;> simp

theorem Ix4.toBits_ofBits (b : BitVec 2) : (Ix4.ofBits b).toBits = b := by
  revert b
  decide

end Writes

/-- Settles O10: both registers write one entry, under one check. -/
theorem windowTableWrites : Obligations.WindowTableWrites := by
  constructor
  · intro i data s hs
    refine ⟨fun h3 => ?_, fun k hk => ⟨fun hr => ?_, fun hr => ⟨fun hq => ?_, fun hq => ?_⟩⟩⟩
    · exact congrArg _ (frameWith_refused hs (by rw [winbaseWrite, h3]; rfl))
    · exact congrArg _ (frameWith_refused hs ((winbaseWrite_of_kind hk).trans (windowWrite_range hr)))
    · exact congrArg _ (frameWith_refused hs ((winbaseWrite_of_kind hk).trans (windowWrite_busy hr hq)))
    · obtain ⟨hi, hj⟩ := windows_set s.cl.windows i
        { s.cl.windows[i] with enable := data.getLsbD 15, kind := k, base := data.setWidth 12 }
      refine ⟨_, congrArg _ (frameWith_accepted hs ((winbaseWrite_of_kind hk).trans (windowWrite_ok hr hq)) rfl),
        rfl, hi, hj, ?_⟩
      rw [snapshot, hi, winbaseWord, ← hk]
      exact winbaseWord_fields data
  · intro i data s hs
    refine ⟨fun hr => ?_, fun hr => ⟨fun hq => ?_, fun hq => ?_⟩⟩
    · exact congrArg _ (frameWith_refused hs ((winlimWrite_eq i data s).trans (windowWrite_range hr)))
    · exact congrArg _ (frameWith_refused hs ((winlimWrite_eq i data s).trans (windowWrite_busy hr hq)))
    · obtain ⟨hi, hj⟩ := windows_set s.cl.windows i
        { s.cl.windows[i] with domain := Ix4.ofBits (data.extractLsb' 12 2), limit := data.setWidth 12 }
      refine ⟨_, congrArg _ (frameWith_accepted hs ((winlimWrite_eq i data s).trans (windowWrite_ok hr hq)) rfl),
        rfl, hi, hj, ?_⟩
      rw [snapshot, hi, winlimWord, Ix4.toBits_ofBits]
      exact winlimWord_fields data

section Writes

variable {s : State}

/-! ### The hash set, the hash action and the default action -/

theorem hsetWrite_busy (k : Ix4) (data : Word) (hq : ¬isQuiescent s) : hsetWrite k data s = (.busy, s) := by
  simp [hsetWrite, quiescent_eq_false hq]

theorem hsetWrite_ok (k : Ix4) (data : Word) (hq : isQuiescent s) :
    hsetWrite k data s = (.ok, { s with cl := { s.cl with hset := s.cl.hset.set k data } }) := by
  simp [hsetWrite, (quiescent_iff_isQuiescent s).mpr hq]

theorem setWidth_two_eq_extract (data : Word) : data.setWidth 2 = data.extractLsb' 0 2 := by
  refine BitVec.eq_of_getLsbD_eq fun n hn => ?_
  simp [hn]

theorem hactWrite_range {data : Word} (h : data.extractLsb' 0 2 = 0#2 ∨ data.extractLsb' 0 2 = 3#2) :
    hactWrite data s = (.range, s) := by
  rw [hactWrite, setWidth_two_eq_extract]
  obtain h | h := h <;> rw [h] <;> rfl

theorem hashKindOf_code (k : HashKind) : hashKindOf k.code = some k := by cases k <;> rfl

theorem hactWrite_busy {data : Word} {k : HashKind} (h : data.extractLsb' 0 2 = k.code) (hq : ¬isQuiescent s) :
    hactWrite data s = (.busy, s) := by
  simp [hactWrite, setWidth_two_eq_extract, h, hashKindOf_code, quiescent_eq_false hq]

theorem hactWrite_ok {data : Word} {k : HashKind} (h : data.extractLsb' 0 2 = k.code) (hq : isQuiescent s) :
    hactWrite data s = (.ok,
      { s with cl := { s.cl with hashKind := k, hashDomain := Ix4.ofBits (data.extractLsb' 4 2) } }) := by
  simp [hactWrite, setWidth_two_eq_extract, h, hashKindOf_code, (quiescent_iff_isQuiescent s).mpr hq]

theorem defactWrite_range {data : Word} (h : data.extractLsb' 0 2 = 1#2 ∨ data.extractLsb' 0 2 = 3#2) :
    defactWrite data s = (.range, s) := by
  rw [defactWrite, setWidth_two_eq_extract]
  obtain h | h := h <;> rw [h] <;> rfl

theorem defaultActionOf_code (a : DefaultAction) : defaultActionOf a.code = some a := by cases a <;> rfl

theorem defactWrite_busy {data : Word} {a : DefaultAction} (h : data.extractLsb' 0 2 = a.code) (hq : ¬isQuiescent s) :
    defactWrite data s = (.busy, s) := by
  simp [defactWrite, setWidth_two_eq_extract, h, defaultActionOf_code, quiescent_eq_false hq]

theorem defactWrite_ok {data : Word} {a : DefaultAction} (h : data.extractLsb' 0 2 = a.code) (hq : isQuiescent s) :
    defactWrite data s = (.ok, { s with cl := { s.cl with defact := a } }) := by
  simp [defactWrite, setWidth_two_eq_extract, h, defaultActionOf_code, (quiescent_iff_isQuiescent s).mpr hq]

end Writes

/-- Settles O11: each of the three effects inside its frame. -/
theorem hashAndDefaultWrites : Obligations.HashAndDefaultWrites := by
  intro k data s hs
  refine ⟨fun hq => ?_, fun hq => ?_, fun hr => ?_, fun kind hk => ⟨fun hq => ?_, fun hq => ?_⟩, fun hr => ?_,
    fun act ha => ⟨fun hq => ?_, fun hq => ?_⟩⟩
  · exact congrArg _ (frameWith_refused hs (hsetWrite_busy k data hq))
  · exact ⟨_, congrArg _ (frameWith_accepted hs (hsetWrite_ok k data hq) rfl), rfl, Four.get_set_same _ k data,
      fun j hj => Four.get_set_of_ne _ data hj⟩
  · exact congrArg _ (frameWith_refused hs (hactWrite_range hr))
  · exact congrArg _ (frameWith_refused hs (hactWrite_busy hk hq))
  · exact congrArg _ (frameWith_accepted hs (hactWrite_ok hk hq) rfl)
  · exact congrArg _ (frameWith_refused hs (defactWrite_range hr))
  · exact congrArg _ (frameWith_refused hs (defactWrite_busy ha hq))
  · exact congrArg _ (frameWith_accepted hs (defactWrite_ok ha hq) rfl)

section Writes

variable {s : State}

/-! ### Commit cells -/

/-- Another enabled domain has the address as its commit cell (R14, R15). -/
theorem cellConflict_iff (s : State) (d : Dom) (a : Addr) :
    cellConflict s d a = true
      ↔ ∃ e, e ≠ d ∧ (s.domains.get e).enabled = true ∧ (s.domains.get e).cell = a := by
  rw [← Bool.not_eq_false, cellConflict_eq_false_iff]
  push Not
  rfl

theorem ccloWrite_ok (d : Dom) (data : Word) (s : State) :
    ccloWrite d data s = (.ok, modDomain d (fun x => { x with cellLatch := data }) s) := rfl

theorem cchiWrite_range {d : Dom} {data : Word} (h : journalBase s.straps ≤ (formedCell s d data).toNat) :
    cchiWrite d data s = (.range, s) := if_pos h

/-- The condition of CONFLICT (R14): the domain is enabled, and so is another with the address as its cell. -/
def cellTaken (s : State) (d : Dom) (a : Addr) : Prop :=
  (s.domains.get d).enabled = true
    ∧ ∃ e, e ≠ d ∧ (s.domains.get e).enabled = true ∧ (s.domains.get e).cell = a

theorem cchiWrite_conflict {d : Dom} {data : Word} (hb : (formedCell s d data).toNat < journalBase s.straps)
    (hc : cellTaken s d (formedCell s d data)) : cchiWrite d data s = (.conflict, s) := by
  rw [cellTaken, ← cellConflict_iff] at hc
  rw [cchiWrite, if_neg (Nat.not_le.mpr hb), if_pos hc]

theorem cchiWrite_busy {d : Dom} {data : Word} (hb : (formedCell s d data).toNat < journalBase s.straps)
    (hc : ¬cellTaken s d (formedCell s d data)) (hq : ¬isQuiescent s) : cchiWrite d data s = (.busy, s) := by
  rw [cellTaken, ← cellConflict_iff] at hc
  rw [cchiWrite, if_neg (Nat.not_le.mpr hb), if_neg hc, quiescent_eq_false hq]
  rfl

theorem cchiWrite_ok {d : Dom} {data : Word} (hb : (formedCell s d data).toNat < journalBase s.straps)
    (hc : ¬cellTaken s d (formedCell s d data)) (hq : isQuiescent s) :
    cchiWrite d data s = (.ok, modDomain d (fun x => { x with cell := formedCell s d data }) s) := by
  rw [cellTaken, ← cellConflict_iff] at hc
  rw [cchiWrite, if_neg (Nat.not_le.mpr hb), if_neg hc, (quiescent_iff_isQuiescent s).mpr hq]
  rfl

theorem sameOtherDomains_modDomain (d : Dom) (f : Domain → Domain) (s : State) :
    sameOtherDomains d s (modDomain d f s) := fun _ he => modDomain_get_of_ne f s he

end Writes

/-- Settles O12: the address that CCHI[d] forms is `formedCell`. -/
theorem commitCellWrites : Obligations.CommitCellWrites := by
  intro d data s a hs ha
  have ha : a = formedCell s d data := ha
  subst ha
  refine ⟨?_, fun hr => ?_, fun hb => ⟨fun hc => ?_, fun hc => ⟨fun hq => ?_, fun hq => ?_⟩⟩⟩
  · exact ⟨_, congrArg _ (frameWith_accepted hs (ccloWrite_ok d data s) rfl), rfl, modDomain_get_same d _ s,
      sameOtherDomains_modDomain d _ s⟩
  · exact congrArg _ (frameWith_refused hs (cchiWrite_range hr))
  · exact congrArg _ (frameWith_refused hs (cchiWrite_conflict hb hc))
  · exact congrArg _ (frameWith_refused hs (cchiWrite_busy hb hc hq))
  · exact ⟨_, congrArg _ (frameWith_accepted hs (cchiWrite_ok hb hc hq) rfl), rfl, modDomain_get_same d _ s,
      sameOtherDomains_modDomain d _ s⟩

section Writes

variable {s : State}

/-! ### Enabling and disabling -/

/-- The enable bit of the DCTL word of an enabling or a disabling, and its other fields (chapter 12). -/
theorem dctlData_fields (on : Bool) (data : Word) :
    (dctlData on data).getLsbD 0 = on
      ∧ (dctlData on data).extractLsb' 3 2 = data.extractLsb' 3 2
      ∧ (dctlData on data).getLsbD 1 = data.getLsbD 1
      ∧ (dctlData on data).getLsbD 2 = data.getLsbD 2 := by
  have h3 : (dctlData on data).extractLsb' 3 2 = data.extractLsb' 3 2 := by
    refine BitVec.eq_of_getLsbD_eq fun n hn => ?_
    interval_cases n <;> cases on <;> simp [dctlData]
  refine ⟨?_, h3, ?_, ?_⟩ <;> cases on <;> simp [dctlData]

theorem withOptions_dctlData (on : Bool) (data : Word) (act : AgeAction) (x : Domain) :
    x.withOptions (dctlData on data) act = x.withOptions data act := by
  obtain ⟨_, _, h1, h2⟩ := dctlData_fields on data
  rw [Domain.withOptions, h1, h2, Domain.withOptions]

theorem ageActionOf_code (a : AgeAction) : ageActionOf a.code = some a := by cases a <;> rfl

theorem dctlWrite_range {d : Dom} {on : Bool} {data : Word} (h : data.extractLsb' 3 2 = 3#2) :
    dctlWrite d (dctlData on data) s = (.range, s) := by
  obtain ⟨_, h3, _, _⟩ := dctlData_fields on data
  rw [dctlWrite, h3, h]
  rfl

/-- An enabling of an OFF domain, its age action named (R15, R38). -/
theorem dctlWrite_enable {d : Dom} {data : Word} {act : AgeAction} (h : data.extractLsb' 3 2 = act.code)
    (hd : (s.domains.get d).state = .off) :
    dctlWrite d (dctlData true data) s
      = if cellConflict s d (s.domains.get d).cell then (.conflict, s)
        else if !quiescent s then (.busy, s)
        else (.ok, modDomain d (fun x => (x.withOptions data act).enable) s) := by
  obtain ⟨h0, h3, _, _⟩ := dctlData_fields true data
  have he : (s.domains.get d).enabled = false := by rw [Domain.enabled, hd]; rfl
  simp only [dctlWrite, h0, h3, h, ageActionOf_code, withOptions_dctlData, he]
  simp [hd]

/-- A disabling of an enabled domain, its age action named (R15, R39). -/
theorem dctlWrite_disable {d : Dom} {data : Word} {act : AgeAction} (h : data.extractLsb' 3 2 = act.code)
    (hd : (s.domains.get d).state ≠ .off) :
    dctlWrite d (dctlData false data) s
      = if (s.domains.get d).state = .opened then (.state, s)
        else if !quiescent s then (.busy, s)
        else (.ok, modDomain d (fun x => (x.withOptions data act).disable) s) := by
  obtain ⟨h0, h3, _, _⟩ := dctlData_fields false data
  have he : (s.domains.get d).enabled = true := (Domain.enabled_iff _).mpr hd
  simp only [dctlWrite, h0, h3, h, ageActionOf_code, withOptions_dctlData, he]
  simp

end Writes

/-- Settles O13: both are writes of DCTL[d] that change the enable option. -/
theorem domainEnablingAndDisabling : Obligations.DomainEnablingAndDisabling := by
  constructor
  · intro d data s hs hd
    refine ⟨fun h3 => ?_, fun act hact => ⟨fun hc => ?_, fun hc => ⟨fun hq => ?_, fun hq => ?_⟩⟩⟩
    · exact congrArg _ (frameWith_refused hs (dctlWrite_range h3))
    · refine congrArg _ (frameWith_refused hs ((dctlWrite_enable hact hd).trans (if_pos ?_)))
      exact (cellConflict_iff s d _).mpr hc
    · rw [← cellConflict_eq_false_iff] at hc
      refine congrArg _ (frameWith_refused hs ((dctlWrite_enable hact hd).trans ?_))
      simp [hc, quiescent_eq_false hq]
    · rw [← cellConflict_eq_false_iff] at hc
      have he : dctlWrite d (dctlData true data) s
          = (.ok, modDomain d (fun x => (x.withOptions data act).enable) s) := by
        rw [dctlWrite_enable hact hd, hc, (quiescent_iff_isQuiescent s).mpr hq]
        rfl
      exact ⟨_, congrArg _ (frameWith_accepted hs he rfl), rfl, sameOtherDomains_modDomain d _ s,
        modDomain_get_same d _ s⟩
  · intro d data s hs hd
    refine ⟨fun h3 => ?_, fun act hact => ⟨fun ho => ?_, fun ho => ⟨fun hq => ?_, fun hq => ?_⟩⟩⟩
    · exact congrArg _ (frameWith_refused hs (dctlWrite_range h3))
    · exact congrArg _ (frameWith_refused hs ((dctlWrite_disable hact hd).trans (if_pos ho)))
    · refine congrArg _ (frameWith_refused hs ((dctlWrite_disable hact hd).trans ?_))
      simp [ho, quiescent_eq_false hq]
    · have he : dctlWrite d (dctlData false data) s
          = (.ok, modDomain d (fun x => (x.withOptions data act).disable) s) := by
        rw [dctlWrite_disable hact hd, if_neg ho, (quiescent_iff_isQuiescent s).mpr hq]
        rfl
      exact ⟨_, congrArg _ (frameWith_accepted hs he rfl), rfl, sameOtherDomains_modDomain d _ s,
        modDomain_get_same d _ s⟩

end Sys2Proof.Machine
end

section
/-! PROOFS. The class of an address, step by step (R4), and the writes that are dropped at their classification (R10). -/

namespace Sys2Proof.Machine

section Classes

variable {s : State} {a : Addr}

/-! ### Commit cells, the outside and the reserved area -/

theorem classify_of_commitCellOf {d : Dom} (h : commitCellOf s a = some d) : classify s a = .commitCell d := by
  rw [classify, h]

/-- With distinct cells the search finds the one enabled domain that has the address (R5). -/
theorem commitCellOf_eq_some {d : Dom} (hc : cellsDistinct s) (hd : (s.domains.get d).enabled = true)
    (ha : (s.domains.get d).cell = a) : commitCellOf s a = some d := by
  have hs : (commitCellOf s a).isSome = true :=
    List.find?_isSome.mpr ⟨d, by cases d <;> decide, by simp [hd, ha]⟩
  obtain ⟨e, he⟩ := Option.isSome_iff_exists.mp hs
  obtain ⟨hen, hcell⟩ := enabled_of_commitCellOf he
  by_cases hed : e = d
  · rw [he, hed]
  · exact absurd (hcell.trans ha.symm) (hc e d hed hen hd)

theorem commitCellOf_eq_none (h : ∀ d, (s.domains.get d).enabled = true → (s.domains.get d).cell ≠ a) :
    commitCellOf s a = none :=
  List.find?_eq_none.mpr fun d _ hd => by
    simp only [Bool.and_eq_true, beq_iff_eq] at hd
    obtain ⟨hen, hcell⟩ := hd
    exact h d hen hcell

theorem classify_outside (hn : commitCellOf s a = none) (h : arrayWords s.straps ≤ a.toNat) :
    classify s a = .outside := by
  rw [classify, hn]
  exact if_pos h

theorem classify_reserved (hn : commitCellOf s a = none) (hw : a.toNat < arrayWords s.straps)
    (h : journalBase s.straps ≤ a.toNat) : classify s a = .reserved := by
  rw [classify, hn]
  exact (if_neg (Nat.not_le.mpr hw)).trans (if_pos h)

theorem classify_tables (hn : commitCellOf s a = none) (h : a.toNat < journalBase s.straps) :
    classify s a = tableClass s.cl a := by
  have hw : a.toNat < arrayWords s.straps := h.trans_le (journalBase_le_arrayWords _)
  rw [classify, hn]
  exact (if_neg (Nat.not_le.mpr hw)).trans (if_neg (Nat.not_le.mpr h))

/-! ### Pages and windows -/

/-- The page of an address is its number of 256 words (spec/00_scope.md, "Page"). -/
theorem toNat_pageOf (a : Addr) : (pageOf a).toNat = a.toNat / 256 := by
  rw [pageOf, BitVec.extractLsb'_toNat, Nat.shiftRight_eq_div_pow]
  exact Nat.mod_eq_of_lt (by omega)

theorem covers_iff (w : Window) (a : Addr) :
    w.covers (pageOf a) = true ↔ w.enable = true ∧ w.base.toNat ≤ a.toNat / 256 ∧ a.toNat / 256 ≤ w.limit.toNat := by
  simp only [Window.covers, Bool.and_eq_true, decide_eq_true_eq, BitVec.le_def, toNat_pageOf, and_assoc]

/-- The lowest-numbered window that covers the page decides (R6). -/
theorem tableClass_window {c : Classifier} {i : Fin 16} (hi : c.windows[i].covers (pageOf a) = true)
    (hj : ∀ j : Fin 16, j < i → ¬c.windows[j].covers (pageOf a) = true) : tableClass c a = c.windows[i].cls := by
  have hfind : c.windows.toList.find? (fun w => w.covers (pageOf a)) = some c.windows[i] := by
    refine List.find?_eq_some_iff_getElem.mpr ⟨hi, i, by simp, Vector.getElem_toList _, fun j hlt => ?_⟩
    rw [Vector.getElem_toList]
    simpa using hj ⟨j, hlt.trans i.isLt⟩ hlt
  rw [tableClass, hfind]

/-- Where no window covers the page, its place in the hash set decides (R7, R8). -/
theorem tableClass_hash {c : Classifier} (h : ∀ i : Fin 16, ¬c.windows[i].covers (pageOf a) = true) :
    tableClass c a = if c.hashSet (pageHash (pageOf a)) then c.hashClass else c.defaultClass := by
  have hfind : c.windows.toList.find? (fun w => w.covers (pageOf a)) = none := by
    refine List.find?_eq_none.mpr fun w hw => ?_
    obtain ⟨i, hi, rfl⟩ := List.getElem_of_mem hw
    rw [Vector.getElem_toList]
    exact h ⟨i, by simpa using hi⟩
  rw [tableClass, hfind]

/-! ### The page hash set -/

/-- The hash of a page: its upper six bits combined with its lower six (R7). -/
theorem toNat_pageHash (p : BitVec 12) : (pageHash p).toNat = (p.toNat / 64) ^^^ (p.toNat % 64) := by
  rw [pageHash, BitVec.toNat_xor, BitVec.extractLsb'_toNat, BitVec.toNat_setWidth, Nat.shiftRight_eq_div_pow]
  congr 1
  exact Nat.mod_eq_of_lt (by omega)

theorem ofBits_eq_of_toNat {b : BitVec 2} {k : Ix4} (h : k.toNat = b.toNat) : Ix4.ofBits b = k := by
  have hb : b = k.toBits := by
    rw [Ix4.toBits, h]
    simp
  rw [hb]
  cases k <;> rfl

/-- Position 16k + j of the Page Hash Set is bit j of HSETk (R7, R13). -/
theorem hashSet_eq (c : Classifier) {pos : BitVec 6} {k : Ix4} (h : k.toNat = pos.toNat / 16) :
    c.hashSet pos = (c.hset.get k).getLsbD (pos.toNat % 16) := by
  have hk : (pos.extractLsb' 4 2).toNat = pos.toNat / 16 := by
    rw [BitVec.extractLsb'_toNat, Nat.shiftRight_eq_div_pow]
    exact Nat.mod_eq_of_lt (by omega)
  rw [Classifier.hashSet, ofBits_eq_of_toNat (h.trans hk.symm)]

end Classes

/-- Settles O23: the steps of R4 in their order. -/
theorem classificationOrder : Obligations.ClassificationOrder := by
  rintro s a _ rfl
  refine ⟨fun d hc hd ha => classify_of_commitCellOf (commitCellOf_eq_some hc hd ha), fun hn => ?_⟩
  have hn := commitCellOf_eq_none hn
  refine ⟨classify_outside hn, classify_reserved hn, fun hb => ⟨fun i he hlo hhi hfirst => ?_, fun hw => ?_⟩⟩
  · rw [classify_tables hn hb, tableClass_window ((covers_iff _ a).mpr ⟨he, hlo, hhi⟩)
      fun j hj hcov => hfirst j hj ((covers_iff _ a).mp hcov)]
    rfl
  · rintro _ rfl
    have hpos : (pageHash (pageOf a)).toNat = (a.toNat / 256 / 64) ^^^ (a.toNat / 256 % 64) := by
      rw [toNat_pageHash, toNat_pageOf]
    rw [classify_tables hn hb, tableClass_hash fun i hcov => hw i ((covers_iff _ a).mp hcov), ← hpos]
    constructor
    · intro k hk hset
      rw [hashSet_eq _ hk, hset]
      rfl
    · intro k hk hset
      rw [hashSet_eq _ hk, hset]
      rfl

section Drops

variable {s : State}

/-! ### Dropped writes -/

/-- The causes of R9 and R10, in their order. -/
theorem classDropCause_eq_some {c : Class} {cause : DropCause}
    (h : (s.engine.state.isBlocked = true ∧ cause = .blocked)
      ∨ (s.engine.state.isBlocked = false ∧ s.power.low = true ∧ cause = .power)
      ∨ (s.engine.state.isBlocked = false ∧ s.power.low = false
        ∧ ((c = .outside ∧ cause = .unmapped) ∨ (c = .reserved ∧ cause = .unmapped) ∨ (c = .deny ∧ cause = .deny)
          ∨ (∃ d, c = .stage d ∧ (s.domains.get d).state = .off ∧ cause = .domainOff)))) :
    classDropCause s c = some cause := by
  obtain ⟨hb, rfl⟩ | ⟨hb, hp, rfl⟩ | ⟨hb, hp, h⟩ := h
  · simp [classDropCause, hb]
  · simp [classDropCause, hb, hp]
  · obtain ⟨rfl, rfl⟩ | ⟨rfl, rfl⟩ | ⟨rfl, rfl⟩ | ⟨d, rfl, hd, rfl⟩ := h
    · simp [classDropCause, hb, hp]
    · simp [classDropCause, hb, hp]
    · simp [classDropCause, hb, hp]
    · simp [classDropCause, hb, hp, Domain.enabled, hd]

/-- A write arrives at a Host Port that decides it at once (R62, R66). -/
theorem seeArrival_write {bus : HostBus} (hr : ready s) (hw : isWrite bus) :
    seeArrival bus s = classifiedWrite (classify s bus.ha) bus.ha bus.hbe bus.hd
      (if s.straps.hpar then some bus.hdp else none) (setHost (heldNow (capturedWrite s bus) .deciding) s) := by
  obtain ⟨hidle, hrec⟩ := hr
  obtain ⟨hwe, hoe, hbe⟩ := hw
  have hcap : capture s.straps.hpar bus = some (capturedWrite s bus) := by
    simp [capture, hwe, hoe, capturedWrite]
  simp only [seeArrival, hidle, hcap, arrive, hrec, Bool.false_eq_true, if_false]
  simp only [capturedWrite, presentAccess, hbe, Bool.false_eq_true, if_false]
  rfl

theorem classifiedWrite_of_dropped {c : Class} {cause : DropCause} (a : Addr) (l : Lanes) (w : Word)
    (hdp : Option (BitVec 2)) (h : classDropCause s c = some cause) :
    classifiedWrite c a l w hdp s = dropWrite cause s := by
  unfold classifiedWrite
  rw [h]

/-- A dropped write's records (R70): the Host Port's cause, the count and the flag. -/
theorem dropWrite_heldNow (a : Access) (k : Hold) (cause : DropCause) (s : State) :
    dropWrite cause (setHost (heldNow a k) s) = { s with
      host := { s.host with port := .ending, dropcause := cause }
      mgmt := s.mgmt.noted [.dropped] [.writesDropped] } := rfl

end Drops

/-- Settles O24: a cause at the classification is looked at before anything else of the write, its parity included. -/
theorem writesDroppedByClass : Obligations.WritesDroppedByClass := by
  intro s bus cause hr hw h
  have hcause : classDropCause (setHost (heldNow (capturedWrite s bus) .deciding) s) (classify s bus.ha) = some cause :=
    classDropCause_eq_some (s := s) h
  refine congrArg Host.Outcome.next ?_
  rw [seeArrival_write hr hw, classifiedWrite_of_dropped _ _ _ _ hcause]
  exact dropWrite_heldNow _ _ cause s

end Sys2Proof.Machine
end

section
/-! PROOFS. The domains and the queued groups as one view of the state: what leaves it alone, and when one domain is
sound. -/

namespace Sys2Proof.Machine

/-! ### The view -/

/-- What `domainsSound` looks at: the straps, the domains, the queue, and which domains are the upper ones of chained
pairs. -/
structure Groups where
  straps : Straps
  domains : Four Domain
  queue : List GroupRecord
  upper : Dom → Bool

/-- The view of a state. -/
def State.groups (s : State) : Groups := ⟨s.straps, s.domains, s.queue, upperChained s.ticks⟩

section View

variable (s : State)

theorem groups_setHold (k : Hold) : (setHold k s).groups = s.groups := by
  unfold setHold
  split <;> rfl

theorem groups_completeQuiet : (completeQuiet s).groups = s.groups := by
  unfold completeQuiet
  split <;> rfl

theorem groups_completeRead (w : Word) : (completeRead w s).groups = s.groups := by
  unfold completeRead
  split <;> rfl

theorem groups_dropWrite (c : DropCause) : (dropWrite c s).groups = s.groups := groups_completeQuiet _

theorem groups_requestEngine : (requestEngine s).groups = s.groups := by
  unfold requestEngine
  split <;> rfl

theorem groups_flowAfterTake : (flowAfterTake s).groups = s.groups := by
  unfold flowAfterTake
  split <;> rfl

theorem groups_flowAfterRelease (n : Nat) : (flowAfterRelease n s).groups = s.groups := by
  unfold flowAfterRelease
  split <;> rfl

theorem groups_flowRetest : (flowRetest s).groups = s.groups := by
  unfold flowRetest
  split
  · exact groups_flowAfterTake s
  · split <;> rfl

theorem groups_beginHead : (beginHead s).groups = s.groups := groups_requestEngine _

theorem groups_tryBegin : (tryBegin s).groups = s.groups := by
  unfold tryBegin
  split
  · exact groups_beginHead s
  · rfl

theorem groups_completeSync : (completeSync s).groups = s.groups := by
  unfold completeSync
  split
  · exact groups_completeQuiet s
  · rfl

theorem groups_completeSync_if (b : Bool) : (if b then completeSync s else s).groups = s.groups := by
  cases b
  · rfl
  · exact groups_completeSync s

theorem groups_dropParity : (dropParity s).groups = s.groups := groups_dropWrite _ .parity

theorem groups_holdForRead (k : Hold) (a : Addr) : (holdForRead k a s).groups = s.groups := groups_setHold s k

theorem groups_classifiedRead (c : Class) (a : Addr) : (classifiedRead c a s).groups = s.groups := by
  unfold classifiedRead stagedRead
  split
  · exact groups_completeRead s _
  · exact groups_completeRead s _
  · split
    · split
      · exact groups_completeRead _ _
      · exact groups_holdForRead s _ a
    · exact groups_holdForRead s _ a
  all_goals exact groups_holdForRead s _ a

theorem groups_passWrite (a : Addr) (l : Lanes) (w : Word) (bad : Bool) :
    (passWrite a l w bad s).groups = s.groups := by
  unfold passWrite
  split
  · exact groups_dropParity s
  · exact groups_setHold s .passWrite

theorem groups_seeReturnIdle : (seeReturnIdle s).groups = s.groups := by
  unfold seeReturnIdle
  split <;> rfl

theorem groups_seeStrobesEnd : (seeStrobesEnd s).groups = s.groups := by
  unfold seeStrobesEnd
  split <;> rfl

theorem groups_hostAccessDone (w : Word) : (hostAccessDone w s).groups = s.groups := by
  unfold hostAccessDone hostReadDone
  split
  · exact groups_completeQuiet s
  · split
    · split
      · split
        · exact groups_completeRead _ _
        · exact groups_completeRead _ _
      · exact groups_completeRead s w
      · rfl
    · rfl

theorem groups_hostTimedOut : (hostTimedOut s).groups = s.groups := by
  unfold hostTimedOut
  dsimp only
  split
  · exact groups_completeQuiet _
  · exact groups_completeRead _ _
  · exact groups_completeRead _ _
  · rfl

theorem groups_goOn (e : EngineState) : (goOn e s).groups = s.groups := groups_requestEngine _

theorem groups_replayOn (h : List Word) (rest : List JournalRecord) : (replayOn h rest s).groups = s.groups := by
  unfold replayOn
  split
  · exact groups_goOn s _
  · exact groups_goOn s _

theorem groups_startRecovery : (startRecovery s).groups = s.groups := groups_goOn _ _

theorem groups_tickHold : (tickHold s).groups = s.groups := by
  unfold tickHold
  repeat' split
  all_goals rfl

theorem groups_tickArray : (tickArray s).groups = s.groups := by
  unfold tickArray
  split <;> rfl

end View

/-! ### One sound domain -/

/-- `domainSound` with a name for each part. -/
structure SoundDomain (st : Straps) (x : Domain) : Prop where
  opened : x.state = .opened ↔ x.group ≠ []
  within : x.group.length ≤ x.ceil.toNat
  distinct : addressesDistinct x.group
  ceil : 1 ≤ x.ceil.toNat ∧ x.ceil.toNat ≤ ceilMax st
  cell : x.cell.toNat < journalBase st
  agerld : 1 ≤ x.agerld.toNat ∧ x.agerld.toNat ≤ 255
  autoPending : x.autoPending = true → x.state = .opened ∧ x.age = 0#16
  closing : x.closing = true → x.state = .empty ∨ x.state = .opened
  age : x.age ≠ 0#16 → x.state = .opened
  ageDue : x.ageDue = true → x.state = .opened ∧ x.age = 0#16 ∧ x.closing = false ∧ x.autoPending = false

theorem domainSound_iff (st : Straps) (x : Domain) : domainSound st x ↔ SoundDomain st x :=
  ⟨fun ⟨h1, h2, h3, h4, h5, h6, h7, h8, h9, h10, h11, h12⟩ => ⟨h1, h2, h3, ⟨h4, h5⟩, h6, ⟨h7, h8⟩, h9, h10, h11, h12⟩,
    fun ⟨h1, h2, h3, ⟨h4, h5⟩, h6, ⟨h7, h8⟩, h9, h10, h11, h12⟩ => ⟨h1, h2, h3, h4, h5, h6, h7, h8, h9, h10, h11, h12⟩⟩

namespace SoundDomain

variable {st : Straps} {x y : Domain}

theorem group_eq_nil (h : SoundDomain st x) (hx : x.state ≠ .opened) : x.group = [] :=
  Decidable.not_not.mp fun hg => hx (h.opened.mpr hg)

theorem age_eq_zero (h : SoundDomain st x) (hx : x.state ≠ .opened) : x.age = 0#16 :=
  Decidable.not_not.mp fun ha => hx (h.age ha)

theorem autoPending_eq_false (h : SoundDomain st x) (hx : x.state ≠ .opened) : x.autoPending = false :=
  Bool.eq_false_iff.mpr fun ha => hx (h.autoPending ha).1

theorem ageDue_eq_false (h : SoundDomain st x) (hx : x.state ≠ .opened) : x.ageDue = false :=
  Bool.eq_false_iff.mpr fun ha => hx (h.ageDue ha).1

/-- A domain that is left without a group: its counter is 0, no expiry is due, no auto-commit is pending. -/
theorem emptied (h : SoundDomain st x) (settings : y.ceil = x.ceil ∧ y.cell = x.cell ∧ y.agerld = x.agerld)
    (state : y.state ≠ .opened) (group : y.group = []) (autoPending : y.autoPending = false)
    (closing : y.closing = true → y.state = .empty) (age : y.age = 0#16) (ageDue : y.ageDue = false) :
    SoundDomain st y := by
  obtain ⟨hceil, hcell, hagerld⟩ := settings
  refine ⟨by simp [state, group], by simp [group], by simp [group, addressesDistinct], hceil ▸ h.ceil, hcell ▸ h.cell,
    hagerld ▸ h.agerld, by simp [autoPending], fun hc => .inl (closing hc), fun ha => absurd age ha, by simp [ageDue]⟩

theorem broke (h : SoundDomain st x) (c : BreakCause) : SoundDomain st (x.broke c) :=
  h.emptied ⟨rfl, rfl, rfl⟩ nofun rfl rfl nofun rfl rfl

theorem queued (h : SoundDomain st x) (tag : Word) : SoundDomain st (x.queued tag) :=
  h.emptied ⟨rfl, rfl, rfl⟩ nofun rfl rfl nofun rfl rfl

/-- A BROKEN domain goes to EMPTY: it has no group already. -/
theorem broken_to_empty (h : SoundDomain st x) (hx : x.state = .broken) :
    SoundDomain st { x with state := .empty } := by
  have hne : x.state ≠ .opened := by rw [hx]; nofun
  exact h.emptied ⟨rfl, rfl, rfl⟩ nofun (h.group_eq_nil hne) (h.autoPending_eq_false hne) (fun _ => rfl)
    (h.age_eq_zero hne) (h.ageDue_eq_false hne)

theorem acknowledge (h : SoundDomain st x) : SoundDomain st x.acknowledge := by
  unfold Domain.acknowledge
  split
  · next hx => exact h.broken_to_empty hx
  · exact h

theorem aborted (h : SoundDomain st x) : SoundDomain st x.aborted := by
  unfold Domain.aborted
  split
  · exact h.emptied ⟨rfl, rfl, rfl⟩ nofun rfl rfl (fun _ => rfl) rfl rfl
  · next hx => exact h.broken_to_empty hx
  · exact h
  · exact h

/-- A commit that waits for a slot closes a domain that is neither OFF nor BROKEN (R26, R28). -/
theorem closed (h : SoundDomain st x) (hx : x.state = .empty ∨ x.state = .opened) :
    SoundDomain st { x with closing := true, autoPending := false, ageDue := false } :=
  ⟨h.opened, h.within, h.distinct, h.ceil, h.cell, h.agerld, nofun, fun _ => hx, h.age, nofun⟩

/-- A coalescing write leaves the addresses of the group as they are (R46). -/
theorem addrs_coalesceInto (es : List Entry) (a : Addr) (l : Lanes) (w : Word) :
    (coalesceInto es a l w).map Entry.addr = es.map Entry.addr := by
  rw [coalesceInto, List.map_map]
  refine List.map_congr_left fun e _ => ?_
  rw [Function.comp_apply]
  split <;> rfl

theorem coalesced (h : SoundDomain st x) (a : Addr) (l : Lanes) (w : Word) :
    SoundDomain st { x with group := coalesceInto x.group a l w } where
  opened := h.opened.trans (not_congr List.map_eq_nil_iff.symm)
  within := by rw [coalesceInto, List.length_map]; exact h.within
  distinct := by rw [addressesDistinct, addrs_coalesceInto]; exact h.distinct
  ceil := h.ceil
  cell := h.cell
  agerld := h.agerld
  autoPending := h.autoPending
  closing := h.closing
  age := h.age
  ageDue := h.ageDue

/-- A write is taken into a new entry, below the ceiling and at an address of its own (R43, R45). -/
theorem took {e : Entry} (h : SoundDomain st x) (below : x.state = .opened → x.group.length < x.ceil.toNat)
    (new : ∀ e' ∈ x.group, e'.addr ≠ e.addr) : SoundDomain st { x with state := .opened, group := x.group ++ [e] } where
  opened := by simp
  within := by
    obtain ⟨hpos, _⟩ := h.ceil
    by_cases hx : x.state = .opened
    · simpa using below hx
    · simpa [h.group_eq_nil hx] using hpos
  distinct := by
    rw [addressesDistinct, List.map_append]
    refine List.nodup_append.mpr ⟨h.distinct, List.nodup_singleton _, fun a ha b hb => ?_⟩
    obtain ⟨e', he', rfl⟩ := List.mem_map.mp ha
    rw [List.mem_singleton.mp hb]
    exact new e' he'
  ceil := h.ceil
  cell := h.cell
  agerld := h.agerld
  autoPending ha := ⟨rfl, (h.autoPending ha).2⟩
  closing _ := .inr rfl
  age _ := rfl
  ageDue ha := ⟨rfl, (h.ageDue ha).2⟩

/-- The age counter of an OPEN domain is loaded where no auto-commit is pending (R146, R147). -/
theorem loaded (h : SoundDomain st x) (hx : x.state = .opened) (ha : x.autoPending = false) (v : Word) :
    SoundDomain st { x with age := v, ageDue := false } :=
  ⟨h.opened, h.within, h.distinct, h.ceil, h.cell, h.agerld, fun hp => absurd (ha.symm.trans hp) nofun, h.closing,
    fun _ => hx, nofun⟩

/-- A due expiry is taken (R151). -/
theorem expiryTaken (h : SoundDomain st x) : SoundDomain st { x with ageDue := false } :=
  { h with ageDue := nofun }

/-- A due expiry leaves an auto-commit pending (R153). -/
theorem pending (h : SoundDomain st x) (hd : x.ageDue = true) :
    SoundDomain st { x with ageDue := false, autoPending := true } := by
  obtain ⟨hx, ha, _, _⟩ := h.ageDue hd
  exact { h with autoPending := fun _ => ⟨hx, ha⟩, ageDue := nofun }

/-- A counter that is counting is decremented, and its expiry becomes due at 0 (R148). -/
theorem ticked (h : SoundDomain st x) (hx : x.state = .opened) (hc : x.closing = false) (hp : x.autoPending = false) :
    SoundDomain st { x with age := x.age - 1#16, ageDue := x.age == 1#16 } where
  opened := h.opened
  within := h.within
  distinct := h.distinct
  ceil := h.ceil
  cell := h.cell
  agerld := h.agerld
  autoPending ha := absurd (hp.symm.trans ha) nofun
  closing := h.closing
  age _ := hx
  ageDue ha := ⟨hx, by rw [eq_of_beq ha]; rfl, hc, hp⟩

theorem enable (h : SoundDomain st x) (hx : x.state = .off) : SoundDomain st x.enable :=
  h.emptied ⟨rfl, rfl, rfl⟩ nofun (h.group_eq_nil (by rw [hx]; nofun)) rfl nofun rfl rfl

theorem disable (h : SoundDomain st x) (hx : x.state ≠ .opened) : SoundDomain st x.disable :=
  h.emptied ⟨rfl, rfl, rfl⟩ nofun (h.group_eq_nil hx) rfl nofun rfl rfl

theorem withOptions (h : SoundDomain st x) (data : Word) (act : AgeAction) : SoundDomain st (x.withOptions data act) :=
  { h with }

end SoundDomain

end Sys2Proof.Machine
end

section
/-! PROOFS. The domains and the queue stay sound under the group protocol's operations: breaks, commits, staged writes,
examinations. -/

namespace Sys2Proof.Machine

/-- `domainsSound` on the view, with a name for each part. -/
structure SoundGroups (v : Groups) : Prop where
  domain : ∀ d, SoundDomain v.straps (v.domains.get d)
  queue : ∀ g ∈ v.queue, g.entries.length ≤ (v.domains.get g.domain).ceil.toNat ∧ addressesDistinct g.entries
  upper : ∀ d, v.upper d = true → (v.domains.get d).age = 0#16

theorem domainsSound_iff (s : State) : domainsSound s ↔ SoundGroups s.groups := by
  constructor
  · rintro ⟨hdomain, hqueue, h01, h23⟩
    refine ⟨fun d => (domainSound_iff _ _).mp (hdomain d), hqueue, fun d hd => ?_⟩
    cases d with
    | i0 => cases hd
    | i1 => exact h01 hd
    | i2 => cases hd
    | i3 => exact h23 hd
  · rintro ⟨hdomain, hqueue, hupper⟩
    exact ⟨fun d => (domainSound_iff _ _).mpr (hdomain d), hqueue, hupper .i1, hupper .i3⟩

namespace SoundGroups

variable {s : State}

/-! ### The elementary changes -/

/-- Domains replaced by sound ones, no ceiling under a queued group of its domain. -/
theorem withDomains (h : SoundGroups s.groups) (v : Four Domain) (hv : ∀ d, SoundDomain s.straps (v.get d))
    (ceil : ∀ g ∈ s.queue, g.entries.length ≤ (v.get g.domain).ceil.toNat)
    (upper : ∀ d, upperChained s.ticks d = true → (v.get d).age = 0#16) :
    SoundGroups { s with domains := v }.groups := ⟨hv, fun g hg => ⟨ceil g hg, (h.queue g hg).2⟩, upper⟩

/-- One domain replaced by a sound one with the ceiling that it had. -/
theorem modDomain {d : Dom} {f : Domain → Domain} (h : SoundGroups s.groups)
    (hf : SoundDomain s.straps (f (s.domains.get d))) (ceil : (f (s.domains.get d)).ceil = (s.domains.get d).ceil)
    (upper : upperChained s.ticks d = true → (f (s.domains.get d)).age = 0#16) :
    SoundGroups (modDomain d f s).groups := by
  refine h.withDomains _ (fun e => ?_) (fun g hg => ?_) fun e he => ?_
  · rw [Four.get_set]
    split
    · exact hf
    · exact h.domain e
  · rw [Four.get_set]
    split
    · next hd => rw [ceil, ← hd]; exact (h.queue g hg).1
    · exact (h.queue g hg).1
  · rw [Four.get_set]
    split
    · next hd => exact upper (hd ▸ he)
    · exact h.upper e he

/-- The queue keeps groups that it had, but for their sync-waiter flags. -/
theorem withQueue (h : SoundGroups s.groups) (q : List GroupRecord)
    (hq : ∀ g ∈ q, ∃ g' ∈ s.queue, g'.domain = g.domain ∧ g'.entries = g.entries) :
    SoundGroups { s with queue := q }.groups := by
  refine ⟨h.domain, fun g hg => ?_, h.upper⟩
  obtain ⟨g', hg', hd, he⟩ := hq g hg
  rw [← hd, ← he]
  exact h.queue g' hg'

theorem subqueue (h : SoundGroups s.groups) (q : List GroupRecord) (hq : q ⊆ s.queue) :
    SoundGroups { s with queue := q }.groups := h.withQueue q fun g hg => ⟨g, hq hg, rfl, rfl⟩

theorem clearSyncFlags (h : SoundGroups s.groups) : SoundGroups (clearSyncFlags s).groups := by
  refine h.withQueue _ fun g hg => ?_
  obtain ⟨g', hg', rfl⟩ := List.mem_map.mp hg
  exact ⟨g', hg', rfl, rfl⟩

/-- A group that is queued has met its domain's ceiling, and leaves the domain in EMPTY (R25). -/
theorem queueGroup (d : Dom) (tag : Word) (b : Bool) (h : SoundGroups s.groups) :
    SoundGroups (queueGroup d tag b s).groups := by
  have h1 : SoundGroups (Machine.modDomain d (Domain.queued tag) s).groups :=
    h.modDomain ((h.domain d).queued tag) rfl fun _ => rfl
  refine ⟨h1.domain, fun g hg => ?_, h1.upper⟩
  obtain hg | hg := List.mem_append.mp hg
  · exact h1.queue g hg
  · rw [List.mem_singleton.mp hg]
    have hc : ((Machine.modDomain d (Domain.queued tag) s).domains.get d).ceil = (s.domains.get d).ceil := by
      rw [modDomain_get_same]
      rfl
    exact ⟨hc ▸ (h.domain d).within, (h.domain d).distinct⟩

theorem loadAge {d : Dom} (h : SoundGroups s.groups) (hd : (s.domains.get d).state = .opened)
    (ha : (s.domains.get d).autoPending = false) : SoundGroups (loadAge d s).groups := by
  unfold Machine.loadAge
  split
  · exact h
  · next hu => exact h.modDomain ((h.domain d).loaded hd ha _) rfl fun hu' => absurd hu' hu

theorem reloadIfIdle {d : Dom} (h : SoundGroups s.groups) (hd : (s.domains.get d).state = .opened) :
    SoundGroups (reloadIfIdle d s).groups := by
  unfold Machine.reloadIfIdle
  split
  · next hm =>
    obtain ⟨_, ha⟩ := hm
    exact h.loadAge hd ha
  · exact h

/-! ### Breaks and commits -/

theorem broke (d : Dom) (c : BreakCause) (h : SoundGroups s.groups) :
    SoundGroups (Machine.modDomain d (Domain.broke c) s).groups :=
  h.modDomain ((h.domain d).broke c) rfl fun _ => rfl

theorem breakCore (d : Dom) (c : BreakCause) (h : SoundGroups s.groups) : SoundGroups (breakCore d c s).groups := by
  unfold Machine.breakCore
  split
  · exact h.broke d c
  · exact h.broke d c
  · exact h
  · exact h

theorem breakDomain (d : Dom) (c : BreakCause) (h : SoundGroups s.groups) :
    SoundGroups (breakDomain d c s).groups := by
  rw [Machine.breakDomain, groups_flowAfterRelease]
  exact h.breakCore d c

theorem breakIfOpen (c : BreakCause) (d : Dom) (h : SoundGroups s.groups) :
    SoundGroups (breakIfOpen c s d).groups := by
  unfold Machine.breakIfOpen
  split
  · exact h.breakCore d c
  · exact h

theorem breakAll (c : BreakCause) (h : SoundGroups s.groups) : SoundGroups (breakAll c s).groups :=
  (((h.breakIfOpen c .i0).breakIfOpen c .i1).breakIfOpen c .i2).breakIfOpen c .i3

theorem acknowledge_eq (x : Domain) : x.acknowledge.ceil = x.ceil ∧ x.acknowledge.age = x.age := by
  unfold Domain.acknowledge
  split <;> exact ⟨rfl, rfl⟩

theorem commitToBroken (d : Dom) (h : SoundGroups s.groups) : SoundGroups (commitToBroken d s).groups := by
  obtain ⟨hceil, hage⟩ := acknowledge_eq (s.domains.get d)
  rw [Machine.commitToBroken, groups_dropWrite]
  exact h.modDomain (h.domain d).acknowledge hceil fun hu => hage.trans (h.upper d hu)

theorem commitQueued (d : Dom) (tag : Word) (h : SoundGroups s.groups) : SoundGroups (commitQueued d tag s).groups := by
  unfold Machine.commitQueued
  split
  · rw [groups_setHold]
    exact h.queueGroup d tag true
  · rw [groups_completeQuiet]
    exact h.queueGroup d tag false

theorem grantCommit (h : SoundGroups s.groups) : SoundGroups (grantCommit s).groups := by
  unfold Machine.grantCommit
  split
  · split
    · exact h.commitQueued _ _
    · exact h
  · exact h

theorem grantPending (d : Dom) (h : SoundGroups s.groups) : SoundGroups (grantPending s d).groups := by
  unfold Machine.grantPending
  split
  · exact h.queueGroup d _ false
  · exact h

theorem grantSlots (h : SoundGroups s.groups) : SoundGroups (grantSlots s).groups :=
  (((h.grantCommit.grantPending .i0).grantPending .i1).grantPending .i2).grantPending .i3

/-! ### Staged writes -/

theorem takeCoalesce {d : Dom} (a : Addr) (l : Lanes) (w : Word) (h : SoundGroups s.groups)
    (hd : (s.domains.get d).state = .opened) : SoundGroups (takeCoalesce d a l w s).groups := by
  have h1 : SoundGroups (Machine.modDomain d (fun x => { x with group := coalesceInto x.group a l w }) s).groups :=
    h.modDomain ((h.domain d).coalesced a l w) rfl (h.upper d)
  rw [Machine.takeCoalesce, groups_completeQuiet]
  refine reloadIfIdle (s := bump .coalesced _) h1 ?_
  rw [bump_domains, modDomain_get_same]
  exact hd

/-- A write at an address of its own is taken below the ceiling; a group that opens so has no auto-commit pending. -/
theorem takeNew {d : Dom} {a : Addr} (l : Lanes) (w : Word) (h : SoundGroups s.groups)
    (below : (s.domains.get d).state = .opened → (s.domains.get d).group.length < (s.domains.get d).ceil.toNat)
    (new : ∀ e ∈ (s.domains.get d).group, e.addr ≠ a) : SoundGroups (takeNew d a l w s).groups := by
  have h1 : SoundGroups (Machine.modDomain d
      (fun x => { x with state := .opened, group := x.group ++ [newEntry a l w] }) s).groups :=
    h.modDomain ((h.domain d).took below new) rfl (h.upper d)
  unfold Machine.takeNew
  dsimp only
  rw [groups_completeQuiet, groups_flowAfterTake]
  split
  · refine reloadIfIdle (s := bump .writesStaged _) h1 ?_
    rw [bump_domains, modDomain_get_same]
  · next hd =>
    refine loadAge (s := bump .writesStaged _) h1 ?_ ?_ <;> rw [bump_domains, modDomain_get_same]
    exact (h.domain d).autoPending_eq_false hd

/-- The tests of R44: a write that does not coalesce is at an address of its own. -/
theorem new_of_not_coalesces {d : Dom} {a : Addr} (h : SoundGroups s.groups) (hc : ¬coalesces s d a = true) :
    ∀ e ∈ (s.domains.get d).group, e.addr ≠ a := by
  intro e he ha
  refine hc ?_
  have hd : (s.domains.get d).state = .opened := (h.domain d).opened.mpr (List.ne_nil_of_mem he)
  simp only [coalesces, holdsAddr, hd, beq_self_eq_true, Bool.true_and]
  exact List.any_eq_true.mpr ⟨e, he, by simp [ha]⟩

theorem placeNow (d : Dom) (a : Addr) (l : Lanes) (w : Word) (h : SoundGroups s.groups) :
    SoundGroups (placeNow d a l w s).groups := by
  unfold Machine.placeNow
  split
  · next hc =>
    simp only [coalesces, Bool.and_eq_true, beq_iff_eq] at hc
    obtain ⟨hopen, _⟩ := hc
    exact h.takeCoalesce a l w hopen
  · next hc =>
    split
    · rw [groups_dropWrite]
      exact h.breakDomain d .ceiling
    · next hceil =>
      refine h.takeNew l w (fun hd => ?_) (h.new_of_not_coalesces hc)
      simpa [atCeiling, hd] using hceil

/-! ### Examinations -/

theorem examineWrite (x : Bool) (d : Dom) (a : Addr) (l : Lanes) (w : Word) (h : SoundGroups s.groups) :
    SoundGroups (examineWrite x d a l w s).groups := by
  unfold Machine.examineWrite
  split
  · rwa [groups_dropWrite]
  · split
    · rwa [groups_dropWrite]
    · split
      · exact h.placeNow d a l w
      · split
        · rw [groups_dropWrite]
          exact h.breakDomain d .hold
        · split
          · exact h
          · rw [groups_dropWrite]
            exact h.breakDomain d .storeFull

theorem examineCommit (x : Bool) (d : Dom) (tag : Word) (h : SoundGroups s.groups) :
    SoundGroups (examineCommit x d tag s).groups := by
  unfold Machine.examineCommit
  split
  · rw [groups_tryBegin]
    exact h.commitQueued d tag
  · split
    · exact commitToBroken (s := setFlag .hold _) d (h.breakDomain d .hold)
    · split
      · exact h
      · exact (h.breakDomain d .queueFull).commitToBroken d

theorem examine (x : Bool) (h : SoundGroups s.groups) : SoundGroups (examine x s).groups := by
  unfold Machine.examine
  split
  · split
    · exact h.examineWrite x _ _ _ _
    · exact h.examineCommit x _ _
    · exact h
  · exact h

/-- A change outside the domains and the queue, with an examination after it. -/
theorem examine_of_eq (x : Bool) {t : State} (h : SoundGroups s.groups) (ht : t.groups = s.groups) :
    SoundGroups (Machine.examine x t).groups := examine x (ht ▸ h)

theorem beginAndExamine (h : SoundGroups s.groups) : SoundGroups (beginAndExamine s).groups := by
  unfold Machine.beginAndExamine
  split
  · exact h.examine_of_eq false (groups_beginHead s)
  · exact h

end SoundGroups

end Sys2Proof.Machine
end

section
/-! PROOFS. The same for the events of the host, the array port, time and power, and for the management writes: every
step keeps the domains sound. -/

namespace Sys2Proof.Machine

/-! ### Facts about management writes -/

theorem groups_windowWrite (s : State) (i : Fin 16) (w : Window) : (windowWrite i w s).2.groups = s.groups :=
  keep_ite (P := fun t => t.groups = s.groups) rfl (keep_ite (P := fun t => t.groups = s.groups) rfl rfl)

theorem groups_winbaseWrite (s : State) (i : Fin 16) (data : Word) : (winbaseWrite i data s).2.groups = s.groups := by
  unfold winbaseWrite
  split
  · rfl
  · exact groups_windowWrite s i _

theorem groups_hactWrite (s : State) (data : Word) : (hactWrite data s).2.groups = s.groups := by
  unfold hactWrite
  repeat' split
  all_goals rfl

theorem groups_defactWrite (s : State) (data : Word) : (defactWrite data s).2.groups = s.groups := by
  unfold defactWrite
  repeat' split
  all_goals rfl

theorem foldl_max_le_iff (l : List Nat) (m n : Nat) : l.foldl max m ≤ n ↔ m ≤ n ∧ ∀ k ∈ l, k ≤ n := by
  induction l generalizing m with
  | nil => simp
  | cons k l ih => simp [ih, and_assoc]

/-- The largest group of a domain is within a count where its open group and its queued ones are (R19). -/
theorem largestGroup_le_iff (s : State) (d : Dom) (n : Nat) :
    largestGroup s d ≤ n
      ↔ (s.domains.get d).group.length ≤ n ∧ ∀ g ∈ s.queue, g.domain = d → g.entries.length ≤ n := by
  simp only [largestGroup, foldl_max_le_iff, List.forall_mem_map, List.mem_filter, beq_iff_eq, and_imp]

/-- An accepted DCTL[d] write leaves the enable option, enables an OFF domain or disables one that is not OPEN (R15). -/
theorem dctlWrite_states (d : Dom) (data : Word) (s : State) :
    (dctlWrite d data s).2 = s
      ∨ ∃ act, (dctlWrite d data s).2 = modDomain d (Domain.withOptions data act) s
        ∨ ((s.domains.get d).state = .off
          ∧ (dctlWrite d data s).2 = modDomain d (fun x => (x.withOptions data act).enable) s)
        ∨ ((s.domains.get d).state ≠ .opened
          ∧ (dctlWrite d data s).2 = modDomain d (fun x => (x.withOptions data act).disable) s) := by
  unfold dctlWrite
  split
  · exact .inl rfl
  · next act _ =>
    dsimp only
    split
    · exact .inr ⟨act, .inl rfl⟩
    · next hon =>
      split
      · exact .inl rfl
      · next hopen =>
        split
        · exact .inl rfl
        · split
          · exact .inl rfl
          · refine .inr ⟨act, .inr ?_⟩
            cases h0 : data.getLsbD 0
            · exact .inr ⟨hopen, rfl⟩
            · refine .inl ⟨?_, rfl⟩
              by_contra hoff
              exact hon (h0.trans ((Domain.enabled_iff _).mpr hoff).symm)

namespace SoundGroups

variable {s : State}

/-! ### The host's events -/

theorem stagedWrite (d : Dom) (a : Addr) (l : Lanes) (w : Word) (bad : Bool) (h : SoundGroups s.groups) :
    SoundGroups (stagedWrite d a l w bad s).groups := by
  unfold Machine.stagedWrite
  split
  · rw [groups_dropParity]
    exact h.breakDomain d .parity
  · split
    · rwa [groups_dropWrite]
    · split
      · exact h.placeNow d a l w
      · exact h.examine_of_eq false (groups_setHold s _)

theorem aborted_eq (x : Domain) : x.aborted.ceil = x.ceil ∧ (x.age = 0#16 → x.aborted.age = 0#16) := by
  unfold Domain.aborted
  split <;> simp

theorem abortGroup (d : Dom) (h : SoundGroups s.groups) : SoundGroups (abortGroup d s).groups := by
  obtain ⟨hceil, hage⟩ := aborted_eq (s.domains.get d)
  rw [Machine.abortGroup, groups_completeQuiet, groups_flowAfterRelease]
  exact h.modDomain (h.domain d).aborted hceil fun hu => hage (h.upper d hu)

theorem holdCommit {d : Dom} (tag : Word) (h : SoundGroups s.groups)
    (hd : (s.domains.get d).state = .empty ∨ (s.domains.get d).state = .opened) :
    SoundGroups (holdCommit d tag s).groups := by
  have h1 : SoundGroups (Machine.modDomain d
      (fun x => { x with closing := true, autoPending := false, ageDue := false }) s).groups :=
    h.modDomain ((h.domain d).closed hd) rfl (h.upper d)
  exact h1.examine_of_eq false (groups_setHold _ _)

theorem commitGroup {d : Dom} (tag : Word) (h : SoundGroups s.groups) (hd : (s.domains.get d).enabled = true) :
    SoundGroups (commitGroup d tag s).groups := by
  unfold Machine.commitGroup
  split
  · exact h.commitToBroken d
  · next hb =>
    split
    · rw [groups_tryBegin]
      exact h.commitQueued d tag
    · have hoff := (Domain.enabled_iff _).mp hd
      refine h.holdCommit tag ?_
      cases hx : (s.domains.get d).state <;> simp_all

theorem commitCellWrite {d : Dom} (l : Lanes) (w : Word) (bad : Bool) (h : SoundGroups s.groups)
    (hd : (s.domains.get d).enabled = true) : SoundGroups (commitCellWrite d l w bad s).groups := by
  unfold Machine.commitCellWrite
  split
  · rw [groups_dropWrite]
    split
    · exact h.breakDomain d .format
    · exact h
  · split
    · rw [groups_dropParity]
      exact h.breakDomain d .parity
    · split
      · exact h.abortGroup d
      · exact h.commitGroup w hd

theorem classifiedWrite (a : Addr) (l : Lanes) (w : Word) (hdp : Option (BitVec 2)) (h : SoundGroups s.groups) :
    SoundGroups (classifiedWrite (classify s a) a l w hdp s).groups := by
  unfold Machine.classifiedWrite
  split
  · rwa [groups_dropWrite]
  · split
    · next d hc => exact h.commitCellWrite l w _ (enabled_of_classify hc)
    · exact h.stagedWrite _ a l w _
    · rwa [groups_passWrite]
    · exact h
    · exact h
    · exact h

theorem presentAccess (a : Access) (h : SoundGroups s.groups) : SoundGroups (presentAccess a s).groups := by
  unfold Machine.presentAccess
  split
  · rwa [groups_completeQuiet]
  · rwa [groups_classifiedRead]
  · split
    · rwa [groups_completeQuiet]
    · exact h.classifiedWrite _ _ _ _

theorem arrive (a : Access) (h : SoundGroups s.groups) : SoundGroups (arrive a s).groups := by
  unfold Machine.arrive
  split
  · exact h
  · exact presentAccess (s := setHost _ s) a h

theorem settle (before : State) (h : SoundGroups s.groups) : SoundGroups (settle before s).groups := by
  unfold Machine.settle
  split
  · dsimp only
    split
    · exact arrive (s := { s with host := { s.host with again := none } }) _ h
    · exact h
  · exact h

theorem seeArrival (bus : HostBus) (h : SoundGroups s.groups) : SoundGroups (seeArrival bus s).groups := by
  unfold Machine.seeArrival
  split
  · exact h.arrive _
  · split
    · exact h
    · exact h
  · exact h

theorem releaseHeld (h : SoundGroups s.groups) : SoundGroups (releaseHeld s).groups := by
  unfold Machine.releaseHeld
  split
  · split
    · exact presentAccess (s := setHost _ s) _ h
    · exact h
  · exact h

/-! ### The engine's accesses -/

theorem enter (e : EngineState) (h : SoundGroups s.groups) : SoundGroups (enter e s).groups :=
  h.examine_of_eq false (groups_goOn s e)

/-- What a retire and an ABANDON_HEAD end with: the slot that is free is given away, the engine begins, and the held
access is examined (R29, R52, R96). -/
theorem grantBeginExamine (h : SoundGroups s.groups) :
    SoundGroups (Machine.examine false (tryBegin (Machine.grantSlots s))).groups :=
  h.grantSlots.examine_of_eq false (groups_tryBegin _)

theorem retire (h : SoundGroups s.groups) : SoundGroups (retire s).groups := by
  unfold Machine.retire
  split
  · exact h
  · next g rest hq =>
    have h1 : SoundGroups { s with queue := rest }.groups :=
      h.subqueue rest (by rw [hq]; exact List.subset_cons_self g rest)
    have h2 : SoundGroups (Machine.modDomain g.domain (fun x => { x with appliedTag := g.tag })
        (setEngine .idle { s with queue := rest })).groups :=
      modDomain (s := setEngine .idle { s with queue := rest }) h1 { h.domain g.domain with } rfl (h.upper g.domain)
    dsimp only
    refine grantBeginExamine ?_
    rw [groups_completeSync_if, groups_flowAfterRelease]
    exact h2

theorem copyingDone (i w : Nat) (h : SoundGroups s.groups) : SoundGroups (copyingDone i w s).groups := by
  unfold Machine.copyingDone
  split
  · rwa [groups_goOn]
  · split
    · rwa [groups_goOn]
    · exact h.enter _

theorem markingDone (k : Nat) (h : SoundGroups s.groups) : SoundGroups (markingDone k s).groups := by
  unfold Machine.markingDone
  split
  · exact h.enter _
  · split <;> rwa [groups_goOn]

theorem homingDone (i : Nat) (h : SoundGroups s.groups) : SoundGroups (homingDone i s).groups := by
  unfold Machine.homingDone
  split
  · rwa [groups_goOn]
  · split
    · exact h.enter _
    · exact h.retire

theorem endRecovery (e : EngineState) (h : SoundGroups s.groups) : SoundGroups (endRecovery e s).groups :=
  releaseHeld (s := setEngine e s) h

theorem failRecovery (c : BlockCause) (h : SoundGroups s.groups) : SoundGroups (failRecovery c s).groups :=
  endRecovery (s := setFlag .recfail s) _ h

theorem headerRead (hd : List Word) (h : SoundGroups s.groups) : SoundGroups (headerRead hd s).groups := by
  unfold Machine.headerRead
  split
  · rwa [groups_goOn]
  · split
    · rwa [groups_goOn]
    · exact h.failRecovery _

theorem recordRead (hd ws : List Word) (h : SoundGroups s.groups) : SoundGroups (recordRead hd ws s).groups := by
  unfold Machine.recordRead
  split
  · rwa [groups_goOn]
  · split
    · rwa [groups_replayOn]
    · exact h.failRecovery _

theorem recoveryDone (r : Recovery) (w : Word) (h : SoundGroups s.groups) :
    SoundGroups (recoveryDone r w s).groups := by
  cases r with
  | marker =>
    unfold Machine.recoveryDone
    dsimp only
    split
    · exact h.headerRead _
    · exact h.endRecovery _
  | header read => exact h.headerRead _
  | records hd read => exact h.recordRead hd _
  | replay hd rest => exact (groups_replayOn s hd rest.tail).symm ▸ h
  | finish hd => exact endRecovery (s := setFlag .recovered { s with engine := _ }) .idle h

theorem engineAccessDone (w : Word) (h : SoundGroups s.groups) : SoundGroups (engineAccessDone w s).groups := by
  unfold Machine.engineAccessDone
  split
  · exact h.recoveryDone _ w
  · split <;> exact h
  · exact h
  · exact h.copyingDone _ _
  · exact h.markingDone _
  · exact h.homingDone _
  · exact h.retire
  · exact h

theorem fault (p : Phase) (i : Nat) (h : SoundGroups s.groups) : SoundGroups (fault p i s).groups :=
  h.examine_of_eq false rfl

theorem engineTimedOut (h : SoundGroups s.groups) : SoundGroups (engineTimedOut s).groups := by
  have h1 : SoundGroups (setFlag .array { s with port := { s.port with arrsrc := .engine } }).groups := h
  unfold Machine.engineTimedOut
  dsimp only
  split
  · exact h1.failRecovery .array
  · split <;> exact h
  · exact h
  · exact h1.fault _ _
  · exact h1.fault _ _
  · exact h1.fault _ _
  · exact h1.fault _ _
  · exact h

theorem accessComplete (ad : Option Word) (h : SoundGroups s.groups) : SoundGroups (accessComplete ad s).groups := by
  have h1 : ∀ m, SoundGroups { s with array := m, port := s.port.finish }.groups := fun _ => h
  unfold Machine.accessComplete
  split
  · exact h
  · dsimp only
    split
    · rw [groups_hostAccessDone]
      exact h
    · exact (h1 _).engineAccessDone _
    · exact h

theorem accessTimeout (left : Option Word) (h : SoundGroups s.groups) : SoundGroups (accessTimeout left s).groups := by
  have h1 : SoundGroups { s with array := interrupted left s, port := s.port.finish }.groups := h
  unfold Machine.accessTimeout
  split
  · exact h
  · split
    · dsimp only
      split
      · rw [groups_hostTimedOut]
        exact h
      · exact h1.engineTimedOut
      · exact h
    · exact h

/-! ### Time and power -/

/-- A domain at a tick (R148): a counter that moves is one of an OPEN domain, neither closing nor pending, and not the
upper one of a chained pair. -/
theorem tickAge_sound (d : Dom) (h : SoundGroups s.groups) :
    SoundDomain s.straps (tickAge s d) ∧ (tickAge s d).ceil = (s.domains.get d).ceil
      ∧ (upperChained s.ticks d = true → (tickAge s d).age = 0#16) := by
  unfold tickAge
  dsimp only
  split
  · next hc =>
    simp only [ageCounting, Bool.and_eq_true, Bool.not_eq_true', beq_iff_eq] at hc
    obtain ⟨⟨⟨⟨hopen, hclosing⟩, hpending⟩, _⟩, hupper⟩ := hc
    exact ⟨(h.domain d).ticked hopen hclosing hpending, rfl, fun hu => absurd (hupper.symm.trans hu) nofun⟩
  · exact ⟨h.domain d, rfl, h.upper d⟩

theorem groups_tickCounts (s : State) :
    (Machine.tickCounts s).groups = { s with domains := Four.ofFn (tickAge s) : State }.groups := by
  have same : (tickArray (tickHold s)).groups = s.groups := by rw [groups_tickArray, groups_tickHold]
  exact congrArg (fun v : Groups => { v with domains := Four.ofFn (tickAge s) }) same

theorem tickCounts (h : SoundGroups s.groups) : SoundGroups (tickCounts s).groups := by
  rw [groups_tickCounts]
  refine h.withDomains _ (fun d => ?_) (fun g hg => ?_) fun d => ?_ <;> rw [Four.get_ofFn]
  · obtain ⟨hsound, _, _⟩ := h.tickAge_sound d
    exact hsound
  · obtain ⟨_, hceil, _⟩ := h.tickAge_sound g.domain
    rw [hceil]
    exact (h.queue g hg).1
  · obtain ⟨_, _, hupper⟩ := h.tickAge_sound d
    exact hupper

theorem holdExpiry (h : SoundGroups s.groups) : SoundGroups (holdExpiry s).groups := by
  unfold Machine.holdExpiry
  split
  · split
    · split
      · rw [groups_completeQuiet]
        exact h.clearSyncFlags
      · exact h.examine true
    · exact h
  · exact h

theorem ageExpiry (d : Dom) (h : SoundGroups s.groups) : SoundGroups (ageExpiry d s).groups := by
  have h0 : SoundGroups (Machine.modDomain d (fun x => { x with ageDue := false }) s).groups :=
    h.modDomain (h.domain d).expiryTaken rfl (h.upper d)
  have h1 : SoundGroups (setFlag .age (Machine.modDomain d (fun x => { x with ageDue := false }) s)).groups := h0
  unfold Machine.ageExpiry
  split
  · next hdue =>
    dsimp only
    split
    · exact h1
    · split
      · exact (h1.queueGroup d _ false).beginAndExamine
      · have h2 : SoundGroups
            (Machine.modDomain d (fun x => { x with ageDue := false, autoPending := true }) s).groups :=
          h.modDomain ((h.domain d).pending hdue) rfl (h.upper d)
        have e : (Machine.modDomain d (fun x => { x with autoPending := true })
            (setFlag .age (Machine.modDomain d (fun x => { x with ageDue := false }) s))).groups
            = (Machine.modDomain d (fun x => { x with ageDue := false, autoPending := true }) s).groups := by
          simp [State.groups]
        rw [e]
        exact h2
    · exact (h1.breakDomain d .age).examine false
  · exact h

theorem takeExpiry (e : Expiry) (h : SoundGroups s.groups) : SoundGroups (takeExpiry s e).groups := by
  refine settle s ?_
  cases e with
  | hold => exact h.holdExpiry
  | array left => exact h.accessTimeout left
  | age d => exact h.ageExpiry d

theorem endHeldByPower (h : SoundGroups s.groups) : SoundGroups (endHeldByPower s).groups := by
  unfold Machine.endHeldByPower
  split
  · rwa [groups_dropWrite]
  · rwa [groups_dropWrite]
  · rw [groups_completeQuiet]
    exact h.clearSyncFlags
  · exact h

theorem samplePwarn (low : Bool) (h : SoundGroups s.groups) : SoundGroups (samplePwarn low s).groups := by
  have h1 : ∀ f p, SoundGroups (setFlag f { s with power := p }).groups := fun _ _ => h
  unfold Machine.samplePwarn
  dsimp only
  split
  · split
    · exact (h1 .powerok _).beginAndExamine
    · exact h
  · split
    · refine endHeldByPower ?_
      rw [groups_flowAfterRelease]
      exact (h1 .power _).breakAll .power
    · exact h

theorem foldl_takeExpiry (early : List Expiry) (h : SoundGroups s.groups) :
    SoundGroups (early.foldl Machine.takeExpiry s).groups := by
  induction early generalizing s with
  | nil => exact h
  | cons e es ih => exact ih (h.takeExpiry e)

theorem takeEvent (e : Event) (h : SoundGroups s.groups) : SoundGroups (takeEvent s e).groups := by
  cases e with
  | hostArrival bus => exact h.seeArrival bus
  | hostReturnIdle => exact (groups_seeReturnIdle s).symm ▸ h
  | hostStrobesEndEarly => exact (groups_seeStrobesEnd s).symm ▸ h
  | holdExpiry => exact h.takeExpiry .hold
  | arrayComplete ad => exact (h.accessComplete ad).settle s
  | arrayTimeout left => exact h.takeExpiry (.array left)
  | tick low early => exact ((h.tickCounts.foldl_takeExpiry early).samplePwarn low).settle _
  | ageExpiry d => exact h.takeExpiry (.age d)

/-! ### Management writes -/

theorem abandonHead (h : SoundGroups s.groups) : SoundGroups (abandonHead s).groups := by
  unfold Machine.abandonHead
  split
  · exact h
  · next g rest hq =>
    dsimp only
    refine grantBeginExamine ?_
    rw [groups_completeSync_if, groups_flowAfterRelease]
    exact h.subqueue rest (by rw [hq]; exact List.subset_cons_self g rest)

theorem consumeHeldCommit (h : SoundGroups s.groups) : SoundGroups (consumeHeldCommit s).groups := by
  unfold Machine.consumeHeldCommit
  split
  · exact h.commitToBroken _
  · exact h

theorem stageClear (h : SoundGroups s.groups) : SoundGroups (stageClear s).groups := by
  have hq : keptRecords s ⊆ (Machine.consumeHeldCommit (Machine.breakAll .clear s)).queue := by
    rw [queue_consumeHeldCommit, queue_breakAll]
    exact keptRecords_subset s
  refine (((h.breakAll .clear).consumeHeldCommit).subqueue _ hq).examine_of_eq false ?_
  rw [groups_flowAfterRelease, groups_completeSync_if]

theorem ecmdWrite (code : Word) (h : SoundGroups s.groups) : SoundGroups (ecmdWrite code s).2.groups := by
  unfold Machine.ecmdWrite
  split
  · exact h
  · unfold holdOffCmd
    split
    · exact beginAndExamine (s := { s with engine := _ }) h
    · exact h
  · unfold retryCmd
    split
    · exact h.enter _
    · exact h
  · unfold abandonHeadCmd
    split
    · exact h.abandonHead
    · exact h
  · unfold stageClearCmd
    split
    · exact h
    · exact h
    all_goals exact h.stageClear
  · unfold recoverRetryCmd
    split
    · split
      · exact h
      · exact (groups_startRecovery s).symm ▸ h
    · exact h
  · unfold journalDiscardCmd
    split
    · split
      · exact h
      · exact (groups_goOn s _).symm ▸ h
    · exact h
  · exact h

theorem ceilWrite (d : Dom) (data : Word) (h : SoundGroups s.groups) : SoundGroups (ceilWrite d data s).2.groups := by
  unfold Machine.ceilWrite
  split
  · exact h
  · next hr =>
    split
    · exact h
    · next hl =>
      obtain ⟨hzero, hmax⟩ := not_or.mp hr
      obtain ⟨hgroup, hqueue⟩ := (largestGroup_le_iff s d data.toNat).mp (Nat.le_of_not_lt hl)
      have hpos : 1 ≤ data.toNat := Nat.one_le_iff_ne_zero.mpr fun h0 => hzero (BitVec.eq_of_toNat_eq h0)
      refine h.withDomains _ (fun e => ?_) (fun g hg => ?_) fun e hu => ?_ <;> rw [Four.get_set] <;> split
      · exact { h.domain d with within := hgroup, ceil := ⟨hpos, Nat.le_of_not_lt hmax⟩ }
      · exact h.domain e
      · next hd => exact hqueue g hg hd
      · exact (h.queue g hg).1
      · next hd => exact h.upper d (hd ▸ hu)
      · exact h.upper e hu

theorem agerldWrite (d : Dom) (data : Word) (h : SoundGroups s.groups) :
    SoundGroups (agerldWrite d data s).2.groups := by
  unfold Machine.agerldWrite
  split
  · exact h
  · next hr =>
    obtain ⟨hzero, hmax⟩ := not_or.mp hr
    have hpos : 1 ≤ data.toNat := Nat.one_le_iff_ne_zero.mpr fun h0 => hzero (BitVec.eq_of_toNat_eq h0)
    have h1 : SoundDomain s.straps { s.domains.get d with agerld := data } :=
      { h.domain d with agerld := ⟨hpos, Nat.le_of_not_lt hmax⟩ }
    exact h.modDomain (f := fun x => { x with agerld := data }) h1 rfl (h.upper d)

/-- A pair whose setting changes has both counters at 0, since its domains are OFF or EMPTY (R149). -/
theorem age_of_not_chainBusy {now new : Bool} {lower upper : Dom} (h : SoundGroups s.groups)
    (hb : ¬chainBusy s now new lower upper = true) (hnow : now = true → (s.domains.get upper).age = 0#16)
    (hnew : new = true) : (s.domains.get upper).age = 0#16 := by
  cases now with
  | true => exact hnow rfl
  | false =>
    refine (h.domain upper).age_eq_zero fun hopen => hb ?_
    have hopen : (s.domains.get upper).state = .opened := hopen
    simp [chainBusy, hnew, chainFree, hopen]

theorem agechainWrite (data : Word) (h : SoundGroups s.groups) : SoundGroups (agechainWrite data s).2.groups := by
  unfold Machine.agechainWrite
  split
  · exact h
  · next hb =>
    obtain ⟨h01, h23⟩ := not_or.mp hb
    refine ⟨h.domain, h.queue, fun d hd => ?_⟩
    cases d with
    | i0 => cases hd
    | i1 => exact h.age_of_not_chainBusy h01 (h.upper .i1) hd
    | i2 => cases hd
    | i3 => exact h.age_of_not_chainBusy h23 (h.upper .i3) hd

theorem dctlWrite (d : Dom) (data : Word) (h : SoundGroups s.groups) : SoundGroups (dctlWrite d data s).2.groups := by
  obtain e | ⟨act, e | ⟨hd, e⟩ | ⟨hd, e⟩⟩ := dctlWrite_states d data s <;> rw [e]
  · exact h
  · exact h.modDomain ((h.domain d).withOptions data act) rfl (h.upper d)
  · exact h.modDomain (((h.domain d).withOptions data act).enable hd) rfl fun _ => rfl
  · exact h.modDomain (((h.domain d).withOptions data act).disable hd) rfl fun _ => rfl

theorem cchiWrite (d : Dom) (data : Word) (h : SoundGroups s.groups) : SoundGroups (cchiWrite d data s).2.groups := by
  obtain e | ⟨below, _, e⟩ := cchiWrite_cases d data s <;> rw [e]
  · exact h
  · have h1 : SoundDomain s.straps { s.domains.get d with cell := formedCell s d data } :=
      { h.domain d with cell := below }
    exact h.modDomain (f := fun x => { x with cell := formedCell s d data }) h1 rfl (h.upper d)

theorem writeReg (r : Reg) (data : Word) (h : SoundGroups s.groups) : SoundGroups (writeReg r data s).2.groups := by
  have keep {c : Prop} [Decidable c] {a b : Status × State} (ha : SoundGroups a.2.groups)
      (hb : SoundGroups b.2.groups) : SoundGroups (if c then a else b).2.groups :=
    keep_ite (P := fun t => SoundGroups t.groups) ha hb
  cases r with
  | ecmd => exact h.ecmdWrite data
  | stalllvl => exact keep h (h.examine_of_eq false (groups_flowRetest _))
  | resumelvl => exact keep h (h.examine_of_eq false (groups_flowRetest _))
  | holdlim => exact keep h h
  | arrto => exact keep h h
  | starve => exact keep h h
  | agechain => exact h.agechainWrite data
  | hact => exact (groups_hactWrite s data).symm ▸ h
  | defact => exact (groups_defactWrite s data).symm ▸ h
  | jaddr => exact keep h (keep h h)
  | hset k => exact keep h h
  | dctl d => exact h.dctlWrite d data
  | ceil d => exact h.ceilWrite d data
  | cclo d => exact h.modDomain (f := fun x => { x with cellLatch := data }) { h.domain d with } rfl (h.upper d)
  | cchi d => exact h.cchiWrite d data
  | agerld d => exact h.agerldWrite d data
  | winbase i => exact (groups_winbaseWrite s i data).symm ▸ h
  | winlim i => exact (groups_windowWrite s i _).symm ▸ h
  | _ => exact h

/-! ### Every step -/

theorem ceilMax_ge (st : Straps) : 64 ≤ ceilMax st := by
  unfold ceilMax journalRecords
  split
  · next hon =>
    have hj : st.jsz ≠ 0#2 := by simpa [journalOn] using hon
    rw [if_neg hj]
    split
    · decide
    · split <;> decide
  · decide

theorem soundDomain_cold (st : Straps) : SoundDomain st Domain.cold :=
  ⟨by decide, by decide, List.nodup_nil, ⟨by decide, ceilMax_ge st⟩, journalBase_pos st, by decide, nofun, nofun,
    fun h => absurd rfl h, nofun⟩

theorem cold (st : Straps) (held : Bool) (array : List Host.Cell) (pending : List Instr) :
    SoundGroups (State.cold st held array pending).groups := by
  have hd : ∀ d, (State.cold st held array pending).groups.domains.get d = Domain.cold :=
    domains_cold st held array pending
  refine ⟨fun d => ?_, nofun, fun d _ => ?_⟩ <;> rw [hd d]
  · exact soundDomain_cold st
  · rfl

theorem keptByCourses : KeptByCourses fun s => SoundGroups s.groups where
  mgmt _ _ h := h
  pending _ _ h := h
  event _ e h := h.takeEvent e
  settle before _ h := h.settle before
  reset st held array pending := by
    rw [groups_requestEngine]
    exact cold st held array pending
  writeReg _ r data h := h.writeReg r data

end SoundGroups

/-- Settles O54: a group grows by a new address below its ceiling alone, and whatever empties it clears the age counter,
its due expiry and the pending auto-commit; the writes of CEIL[d], AGERLD[d], CCHI[d], AGECHAIN and DCTL[d] check their
ranges and what the domains hold. -/
theorem stepsKeepDomainsSound : Obligations.StepsKeepDomainsSound := by
  intro s t hs h
  rw [domainsSound_iff] at hs ⊢
  exact SoundGroups.keptByCourses.step h hs

end Sys2Proof.Machine
end

section
/-! PROOFS. The writes of the domain options, of the ceilings and of registers that hold limits and settings alone. -/

namespace Sys2Proof.Machine

section Writes

variable {s : State}

/-! ### The domain options and the ceiling -/

/-- The effect of DCTL_OPTIONS_WRITE: the enable option is the one in force (R18). -/
def optionsEffect (d : Dom) (data : Word) (t : State) : Status × State :=
  dctlWrite d (dctlData (t.domains.get d).enabled data) t

theorem execDctlOptionsWrite_eq (d : Dom) (data : Word) (s : State) :
    exec (.dctlOptionsWrite d data []) s = .next (frameWith (.dctl d) (optionsEffect d data) [] s) := rfl

theorem optionsEffect_range {d : Dom} {data : Word} (h : data.extractLsb' 3 2 = 3#2) :
    optionsEffect d data s = (.range, s) := dctlWrite_range h

/-- A DCTL[d] write that repeats the enable option, its age action named (R18). -/
theorem optionsEffect_ok {d : Dom} {data : Word} {act : AgeAction} (h : data.extractLsb' 3 2 = act.code) :
    optionsEffect d data s = (.ok, modDomain d (Domain.withOptions data act) s) := by
  obtain ⟨h0, h3, _, _⟩ := dctlData_fields (s.domains.get d).enabled data
  have hopt : Domain.withOptions (dctlData (s.domains.get d).enabled data) act = Domain.withOptions data act :=
    funext fun x => withOptions_dctlData _ data act x
  simp only [optionsEffect, dctlWrite, h0, h3, h, ageActionOf_code, hopt, if_true]

theorem ceilMax_eq (st : Straps) : ceilMax st = if st.jsz = 0#2 then 512 else journalRecords st - 1 := by
  by_cases h : st.jsz = 0#2 <;> simp [ceilMax, journalOn, h, Config.storeEntries]

theorem ceilWrite_range {d : Dom} {data : Word} (h : data = 0#16 ∨ ceilMax s.straps < data.toNat) :
    ceilWrite d data s = (.range, s) := if_pos h

/-- A ceiling in its range is refused below the entry count of a group of the domain, open or queued (R19). -/
theorem ceilWrite_busy {d : Dom} {data : Word} (h : ¬(data = 0#16 ∨ ceilMax s.straps < data.toNat))
    (hg : data.toNat < (s.domains.get d).group.length
      ∨ ∃ g ∈ s.queue, g.domain = d ∧ data.toNat < g.entries.length) : ceilWrite d data s = (.busy, s) := by
  have hl : data.toNat < largestGroup s d := by
    by_contra hl
    obtain ⟨hopen, hqueue⟩ := (largestGroup_le_iff s d _).mp (Nat.le_of_not_lt hl)
    obtain hg | ⟨g, hg, hd, hlt⟩ := hg
    · exact absurd hg (Nat.not_lt.mpr hopen)
    · exact absurd hlt (Nat.not_lt.mpr (hqueue g hg hd))
  rw [ceilWrite, if_neg h, if_pos hl]

theorem ceilWrite_ok {d : Dom} {data : Word} (h : ¬(data = 0#16 ∨ ceilMax s.straps < data.toNat))
    (hopen : (s.domains.get d).group.length ≤ data.toNat)
    (hqueue : ∀ g ∈ s.queue, g.domain = d → g.entries.length ≤ data.toNat) :
    ceilWrite d data s = (.ok, modDomain d (fun x => { x with ceil := data }) s) := by
  have hl := (largestGroup_le_iff s d _).mpr ⟨hopen, hqueue⟩
  rw [ceilWrite, if_neg h, if_neg (Nat.not_lt.mpr hl)]

end Writes

/-- Settles O14: the options of DCTL[d], and the checks of CEIL[d] in their order. -/
theorem domainOptionAndCeilingWrites : Obligations.DomainOptionAndCeilingWrites := by
  constructor
  · intro d data s hs
    rw [execDctlOptionsWrite_eq]
    refine ⟨fun h3 => ?_, fun act hact => ?_⟩
    · exact congrArg _ (frameWith_refused hs (optionsEffect_range h3))
    · exact ⟨_, congrArg _ (frameWith_accepted hs (optionsEffect_ok hact) rfl), rfl,
        sameOtherDomains_modDomain d _ s, modDomain_get_same d _ s⟩
  · intro d data s greatest hs hmax
    rw [← ceilMax_eq] at hmax
    subst hmax
    refine ⟨fun hr => ?_, fun h0 hle => ?_⟩
    · exact congrArg _ (frameWith_refused hs (ceilWrite_range hr))
    · have hr : ¬(data = 0#16 ∨ ceilMax s.straps < data.toNat) := not_or.mpr ⟨h0, Nat.not_lt.mpr hle⟩
      refine ⟨fun hg => ?_, fun hopen hqueue => ?_⟩
      · exact congrArg _ (frameWith_refused hs (ceilWrite_busy hr hg))
      · exact ⟨_, congrArg _ (frameWith_accepted hs (ceilWrite_ok hr hopen hqueue) rfl), rfl,
          sameOtherDomains_modDomain d _ s, modDomain_get_same d _ s⟩

section Writes

variable {s : State}

/-! ### HOLDLIM, ARRTO and AGERLD[d] -/

theorem holdlimWrite_range {data : Word} (h : 255 < data.toNat) : holdlimWrite data s = (.range, s) := if_pos h

theorem holdlimWrite_ok {data : Word} (h : data.toNat ≤ 255) :
    holdlimWrite data s = (.ok, { s with host := { s.host with holdlim := data } }) := if_neg (Nat.not_lt.mpr h)

theorem arrtoWrite_range {data : Word} (h : 255 < data.toNat) : arrtoWrite data s = (.range, s) := if_pos h

theorem arrtoWrite_ok {data : Word} (h : data.toNat ≤ 255) :
    arrtoWrite data s = (.ok, { s with port := { s.port with arrto := data } }) := if_neg (Nat.not_lt.mpr h)

theorem eq_zero_iff_toNat (w : Word) : w = 0#16 ↔ w.toNat = 0 :=
  ⟨fun h => by rw [h]; rfl, fun h => BitVec.eq_of_toNat_eq h⟩

theorem agerldWrite_range {d : Dom} {data : Word} (h : data.toNat = 0 ∨ 255 < data.toNat) :
    agerldWrite d data s = (.range, s) := if_pos (h.imp_left (eq_zero_iff_toNat data).mpr)

theorem agerldWrite_ok {d : Dom} {data : Word} (hpos : 1 ≤ data.toNat) (hle : data.toNat ≤ 255) :
    agerldWrite d data s = (.ok, modDomain d (fun x => { x with agerld := data }) s) :=
  if_neg (by rw [eq_zero_iff_toNat]; omega)

end Writes

/-- Settles O15: each of the six effects inside its frame. -/
theorem acceptedAndRangedWrites : Obligations.AcceptedAndRangedWrites := by
  constructor
  · intro data s hs
    refine ⟨?_, ?_, ?_⟩
    · exact congrArg _ (frameWith_accepted (r := .abortval) (effect := abortvalWrite data) hs rfl rfl)
    · exact congrArg _ (frameWith_accepted (r := .tickdiv) (effect := tickdivWrite data) hs rfl rfl)
    · exact congrArg _ (frameWith_accepted (r := .jaddrlo) (effect := jaddrloWrite data) hs rfl rfl)
  · intro d data s hs
    refine ⟨fun hr => ⟨?_, ?_⟩, fun hle => ⟨?_, ?_⟩, fun hr => ?_, fun hpos hle => ?_⟩
    · exact congrArg _ (frameWith_refused hs (holdlimWrite_range hr))
    · exact congrArg _ (frameWith_refused hs (arrtoWrite_range hr))
    · exact congrArg _ (frameWith_accepted hs (holdlimWrite_ok hle) rfl)
    · exact congrArg _ (frameWith_accepted hs (arrtoWrite_ok hle) rfl)
    · exact congrArg _ (frameWith_refused hs (agerldWrite_range hr))
    · exact ⟨_, congrArg _ (frameWith_accepted hs (agerldWrite_ok hpos hle) rfl), rfl, sameOtherDomains_modDomain d _ s,
        modDomain_get_same d _ s⟩

end Sys2Proof.Machine
end

section
/-! PROOFS. The closed forms of what a host write goes through: its arrival, drain, a release with its flow test, a
break, a drop. -/

namespace Sys2Proof.Machine

section ClosedForms

variable {s : State}

/-! ### The arrival of a write that its class takes -/

/-- Good parity on the bus is no bad parity of what was captured (R68). -/
theorem badParity_of_parityGood {bus : HostBus} (h : parityGood s bus) :
    badParity bus.hbe bus.hd (if s.straps.hpar then some bus.hdp else none) = false := by
  cases hp : s.straps.hpar with
  | false => rfl
  | true =>
    obtain ⟨h0, h1⟩ := h hp
    unfold laneParityGood at h0 h1
    cases hl0 : bus.hbe.lane0 <;> cases hl1 : bus.hbe.lane1 <;> simp_all [badParity]

/-- A write that its class takes meets no cause to drop it, if it is staged for an enabled domain or goes to a commit
cell (R9, R10). -/
theorem classDropCause_eq_none {c : Class} (hw : writesTaken s)
    (hc : (∃ d, c = .stage d ∧ (s.domains.get d).enabled = true) ∨ ∃ d, c = .commitCell d) :
    classDropCause s c = none := by
  obtain ⟨_, hblocked, hlow⟩ := hw
  obtain ⟨d, rfl, hd⟩ | ⟨d, rfl⟩ := hc
  · simp [classDropCause, hblocked, hlow, hd]
  · simp [classDropCause, hblocked, hlow]

/-- The state in which an arriving write is decided (R62, R63). -/
def arrived (s : State) (bus : HostBus) : State := setHost (heldNow (capturedWrite s bus) .deciding) s

theorem seeArrival_eq_classified {bus : HostBus} (hw : writesTaken s) (hb : isWrite bus) :
    seeArrival bus s = classifiedWrite (classify s bus.ha) bus.ha bus.hbe bus.hd
      (if s.straps.hpar then some bus.hdp else none) (arrived s bus) := seeArrival_write hw.1 hb

/-- A staged write of good parity reaches the controller of an enabled domain (R9, R22). -/
theorem seeArrival_staged {bus : HostBus} {d : Dom} (hw : writesTaken s) (hb : isWrite bus) (hp : parityGood s bus)
    (hc : classify s bus.ha = .stage d) (hd : (s.domains.get d).enabled = true) :
    seeArrival bus s = stagedWrite d bus.ha bus.hbe bus.hd false (arrived s bus) := by
  have hnone : classDropCause (arrived s bus) (.stage d) = none :=
    classDropCause_eq_none (s := s) hw (.inl ⟨d, rfl, hd⟩)
  rw [seeArrival_eq_classified hw hb, hc, classifiedWrite, hnone]
  dsimp only
  rw [badParity_of_parityGood hp]

/-- A commit-cell write of both lanes and good parity reaches its domain's controller (R9, R24). -/
theorem seeArrival_commitCell {bus : HostBus} {d : Dom} (hw : writesTaken s) (hb : isWrite bus)
    (hl : bus.hbe = Lanes.both) (hp : parityGood s bus) (hc : classify s bus.ha = .commitCell d) :
    seeArrival bus s
      = if bus.hd = s.abortval then abortGroup d (arrived s bus) else commitGroup d bus.hd (arrived s bus) := by
  have hnone : classDropCause (arrived s bus) (.commitCell d) = none :=
    classDropCause_eq_none (s := s) hw (.inr ⟨d, rfl⟩)
  rw [seeArrival_eq_classified hw hb, hc, classifiedWrite, hnone]
  dsimp only
  rw [commitCellWrite, badParity_of_parityGood hp, hl]
  rfl

theorem ne_broken_of_takesWrites {d : Dom} (h : takesWrites s d) : (s.domains.get d).state ≠ .broken := by
  obtain h | h := h <;> rw [h] <;> nofun

/-! ### Drain -/

theorem stopped_iff {e : EngineState} (hb : e.isBlocked = false) : e.stopped = true ↔ ∃ p i, e = .faulted p i := by
  cases e <;> simp_all [EngineState.stopped, EngineState.isBlocked]

/-- Drain as the examinations test it, where neither BLOCKED nor POWER_LOW stands against it (R51). -/
theorem drainPending_eq_true (hw : writesTaken s) (hq : s.queue ≠ []) (hf : ∀ p i, s.engine.state ≠ .faulted p i) :
    drainPending s = true := by
  obtain ⟨_, hblocked, hlow⟩ := hw
  have hs : s.engine.state.stopped = false :=
    Bool.eq_false_iff.mpr fun h => by
      obtain ⟨p, i, h⟩ := (stopped_iff hblocked).mp h
      exact hf p i h
  simp [drainPending, hq, hs, hlow]

theorem drainPending_eq_false (h : s.queue = [] ∨ ∃ p i, s.engine.state = .faulted p i) : drainPending s = false := by
  obtain h | ⟨p, i, h⟩ := h
  · simp [drainPending, h]
  · simp [drainPending, h, EngineState.stopped]

/-! ### Releases -/

/-- A domain gives up its group: that many entries are free again (R42). -/
theorem freeCount_of_emptied {t : State} {d : Dom} {x : Domain} (hs : storeSound s) (hq : t.queue = s.queue)
    (ht : t.domains = s.domains.set d x) (hx : x.group = []) :
    freeCount t = freeCount s + (s.domains.get d).group.length := by
  obtain ⟨hsum, _⟩ := hs
  have hu : usedEntries t + (s.domains.get d).group.length = usedEntries s := by
    simp only [usedEntries, openEntries, hq, ht]
    cases d <;> simp only [Four.set, Four.get, hx, List.length_nil] <;> omega
  simp only [freeCount, Config.storeEntries] at hsum ⊢
  omega

/-- The flow test after a release that found `before` entries free (R48, R57). -/
theorem flowAfterRelease_eq (before : Nat) (s : State) :
    flowAfterRelease before s = { s with store := { s.store with
      flow := if s.store.flow = .throttled ∧ before < freeCount s ∧ s.store.resumelvl.toNat ≤ freeCount s then .flowing
        else s.store.flow } } := by
  unfold flowAfterRelease
  split <;> rfl

/-- The flow state after one domain has given up its group. -/
theorem flowAfterRelease_emptied {t : State} {d : Dom} {x : Domain} (hs : storeSound s) (hq : t.queue = s.queue)
    (ht : t.domains = s.domains.set d x) (hx : x.group = []) (hst : t.store = s.store) :
    flowAfterRelease (freeCount s) t
      = { t with store := { s.store with flow := flowReleased s (s.domains.get d).group.length } } := by
  rw [flowAfterRelease_eq, freeCount_of_emptied hs hq ht hx, hst]
  simp only [flowReleased, Nat.lt_add_right_iff_pos]

/-- A break of a domain that takes writes, with the flow test (R31, R57). -/
theorem breakDomain_eq {d : Dom} (c : BreakCause) (hs : storeSound s) (hd : takesWrites s d) :
    breakDomain d c s = { s with
      domains := s.domains.set d (brokenBy c (s.domains.get d))
      store := { s.store with flow := flowReleased s (s.domains.get d).group.length }
      mgmt := s.mgmt.noted [.broken] [.groupsBroken] } := by
  have hcore : breakCore d c s = setFlag .broken (bump .groupsBroken (modDomain d (Domain.broke c) s)) := by
    unfold breakCore
    obtain hd | hd := hd <;> rw [hd]
  rw [breakDomain, hcore]
  exact flowAfterRelease_emptied hs rfl rfl rfl rfl

/-! ### Ends of the access -/

theorem completeQuiet_eq {p : Progress} (hp : s.host.port = .inProgress p) :
    completeQuiet s = setHost (quietEnd p.ended) s := by
  unfold completeQuiet
  rw [hp]
  rfl

/-- A drop's records (R70). -/
theorem dropWrite_eq {p : Progress} (c : DropCause) (hp : s.host.port = .inProgress p) :
    dropWrite c s = { s with
      host := { s.host with port := quietEnd p.ended, dropcause := c }
      mgmt := s.mgmt.noted [.dropped] [.writesDropped] } :=
  completeQuiet_eq (s := setFlag .dropped (bump .writesDropped { s with host := { s.host with dropcause := c } })) hp

/-- A break with the drop of the host's write. -/
theorem dropWrite_breakDomain {p : Progress} {d : Dom} (c : BreakCause) (hp : s.host.port = .inProgress p)
    (hs : storeSound s) (hd : takesWrites s d) :
    dropWrite .broken (breakDomain d c s) = brokeAndDropped s d c [] (quietEnd p.ended) := by
  rw [breakDomain_eq c hs hd]
  exact dropWrite_eq .broken hp

/-- A break with the drop of the host's commit, which takes the domain to EMPTY (R28). -/
theorem commitToBroken_breakDomain {p : Progress} {d : Dom} (c : BreakCause) (hp : s.host.port = .inProgress p)
    (hs : storeSound s) (hd : takesWrites s d) :
    commitToBroken d (breakDomain d c s) = commitBrokeAndDropped s d c [] (quietEnd p.ended) := by
  rw [breakDomain_eq c hs hd, commitToBroken]
  refine Eq.trans (dropWrite_eq .broken (p := p) ?_) ?_
  · exact hp
  simp only [modDomain, Four.get_set_same]
  rfl

end ClosedForms

end Sys2Proof.Machine
end

section
/-! PROOFS. Staged writes that break their domain, are dropped or wait; commit-cell writes, whatever they find. -/

namespace Sys2Proof.Machine

section Writes

variable {s : State}

/-! ### Staged writes -/

theorem coalesces_eq_false {d : Dom} {a : Addr}
    (h : (s.domains.get d).state = .opened → ∀ e ∈ (s.domains.get d).group, e.addr ≠ a) : coalesces s d a = false := by
  simp only [coalesces, holdsAddr, Bool.and_eq_false_iff, beq_eq_false_iff_ne, List.any_eq_false, beq_iff_eq]
  by_cases hd : (s.domains.get d).state = .opened
  · exact .inr (h hd)
  · exact .inl hd

theorem atCeiling_iff (s : State) (d : Dom) :
    atCeiling s d = true
      ↔ (s.domains.get d).state = .opened ∧ (s.domains.get d).ceil.toNat ≤ (s.domains.get d).group.length := by
  simp [atCeiling]

/-- At the ceiling, with no entry of its address, a staged write breaks its domain (R23, R44). -/
theorem stagedWrite_atCeiling {p : Progress} {d : Dom} {a : Addr} (l : Lanes) (w : Word)
    (hp : s.host.port = .inProgress p) (hs : storeSound s) (hd : (s.domains.get d).state = .opened)
    (hnew : ∀ e ∈ (s.domains.get d).group, e.addr ≠ a)
    (hceil : (s.domains.get d).ceil.toNat ≤ (s.domains.get d).group.length) :
    stagedWrite d a l w false s = brokeAndDropped s d .ceiling [] (quietEnd p.ended) := by
  have hat : atCeiling s d = true := (atCeiling_iff s d).mpr ⟨hd, hceil⟩
  have hb : (s.domains.get d).state ≠ .broken := by rw [hd]; nofun
  have hc : coalesces s d a = false := coalesces_eq_false fun _ => hnew
  simp only [stagedWrite, Bool.false_eq_true, if_false, hb, hat, true_or, or_true, if_true, placeNow, hc]
  exact dropWrite_breakDomain .ceiling hp hs (.inr hd)

theorem stagedWrite_broken {d : Dom} (a : Addr) (l : Lanes) (w : Word) (hd : (s.domains.get d).state = .broken) :
    stagedWrite d a l w false s = dropWrite .broken s := by
  simp [stagedWrite, hd]

/-- A staged write that needs a new entry in THROTTLED is held, and examined at once (R44, R50). -/
theorem stagedWrite_throttled {d : Dom} {a : Addr} (l : Lanes) (w : Word) (hd : takesWrites s d)
    (hc : coalesces s d a = false) (hat : ¬atCeiling s d = true) (hf : s.store.flow = .throttled) :
    stagedWrite d a l w false s = examine false (setHold (.storeSpace d) s) := by
  have hflow : s.store.flow ≠ .flowing := by rw [hf]; nofun
  have hb := ne_broken_of_takesWrites hd
  simp [stagedWrite, hb, hc, hat, hflow]

/-- The state in which a staged write that needs a new entry in THROTTLED is examined (R50). -/
def writeWaits (s : State) (bus : HostBus) (d : Dom) : State :=
  setHost (heldNow (capturedWrite s bus) (.storeSpace d)) s

/-- The examination of a staged write in THROTTLED, its hold limit not expired (R53). -/
theorem examineWrite_throttled {p : Progress} {d : Dom} (a : Addr) (l : Lanes) (w : Word)
    (hp : s.host.port = .inProgress p) (hd : takesWrites s d) (hlow : s.power.low = false)
    (hf : s.store.flow = .throttled) :
    (drainPending s = true → examineWrite false d a l w s = s)
      ∧ (drainPending s = false → storeSound s →
        examineWrite false d a l w s = brokeAndDropped s d .storeFull [] (quietEnd p.ended)) := by
  have hflow : s.store.flow ≠ .flowing := by rw [hf]; nofun
  have hb := ne_broken_of_takesWrites hd
  simp only [examineWrite, hb, hlow, hflow, Bool.false_eq_true, if_false]
  refine ⟨fun h => if_pos h, fun h hs => ?_⟩
  rw [h]
  exact dropWrite_breakDomain .storeFull hp hs hd

end Writes

/-- Settles O29: the tests of R44 in their order, and the examination at arrival. -/
theorem stagedWritesThatBreakOrWait : Obligations.StagedWritesThatBreakOrWait := by
  constructor
  · intro s bus d hw hb hp hc
    refine ⟨fun hd hnew hceil hs => ?_, fun hd => ?_⟩
    · refine congrArg Host.Outcome.next ?_
      rw [seeArrival_staged hw hb hp hc (enabled_of_opened hd)]
      exact stagedWrite_atCeiling (s := arrived s bus) _ _ rfl hs hd hnew hceil
    · refine congrArg Host.Outcome.next ?_
      rw [seeArrival_staged hw hb hp hc ((Domain.enabled_iff _).mpr (by rw [hd]; nofun)),
        stagedWrite_broken (s := arrived s bus) _ _ _ hd]
      exact dropWrite_heldNow _ _ _ s
  · intro s bus d hw hb hp hc hd hf hroom
    have hat : ¬atCeiling s d = true := fun h => by
      obtain ⟨hopen, hle⟩ := (atCeiling_iff s d).mp h
      exact absurd hle (Nat.not_le.mpr (hroom hopen).2)
    have harrive : exec (.hostAccessArrival bus) s
        = .next (examineWrite false d bus.ha bus.hbe bus.hd (writeWaits s bus d)) := by
      refine congrArg Host.Outcome.next ?_
      rw [seeArrival_staged hw hb hp hc (enabled_of_takesWrites hd), stagedWrite_throttled (s := arrived s bus) _ _ hd
        (coalesces_eq_false (s := s) fun h => (hroom h).1) hat hf]
      rfl
    have ⟨_, _, hlow⟩ := hw
    obtain ⟨hheld, hbreak⟩ := examineWrite_throttled (s := writeWaits s bus d)
      bus.ha bus.hbe bus.hd rfl hd hlow hf
    rw [harrive]
    refine ⟨fun hq he => ?_, fun hq hs _ => ?_⟩
    · rw [hheld (drainPending_eq_true (s := s) hw hq he)]
      rfl
    · rw [hbreak (drainPending_eq_false (s := s) hq) hs]
      rfl

section Commits

variable {s : State}

/-! ### Aborts and commits that queue nothing -/

/-- An abort of an open group releases its entries (R27). -/
theorem abortGroup_opened {p : Progress} {d : Dom} (hp : s.host.port = .inProgress p) (hs : storeSound s)
    (hd : (s.domains.get d).state = .opened) :
    abortGroup d s = { s with
      domains := s.domains.set d { s.domains.get d with
        state := .empty, autoPending := false, group := [], age := 0#16, ageDue := false }
      store := { s.store with flow := flowReleased s (s.domains.get d).group.length }
      host := { s.host with port := quietEnd p.ended } } := by
  have hx : (s.domains.get d).aborted = { s.domains.get d with
      state := .empty, autoPending := false, group := [], age := 0#16, ageDue := false } := by
    simp [Domain.aborted, hd]
  have hflow := flowAfterRelease_emptied (t := modDomain d Domain.aborted s) hs rfl rfl (by rw [hx]) rfl
  rw [abortGroup, hflow, modDomain, hx]
  exact completeQuiet_eq hp

/-- An abort that finds no open group releases nothing, so no flow test is made (R27, R48). -/
theorem abortGroup_of_same_group {p : Progress} {d : Dom} {x : Domain} (hp : s.host.port = .inProgress p)
    (hx : (s.domains.get d).aborted = x) (hg : x.group = (s.domains.get d).group) :
    abortGroup d s = { s with
      domains := s.domains.set d x
      host := { s.host with port := quietEnd p.ended } } := by
  have hfree : freeCount (modDomain d Domain.aborted s) = freeCount s := by
    rw [modDomain, hx]
    unfold freeCount usedEntries openEntries
    cases d <;> simp only [Four.set, Four.get] at hg ⊢ <;> rw [hg]
  have hflow : flowAfterRelease (freeCount s) (modDomain d Domain.aborted s) = modDomain d Domain.aborted s := by
    rw [flowAfterRelease, hfree]
    simp
  rw [abortGroup, hflow, modDomain, hx]
  exact completeQuiet_eq hp

theorem commitGroup_broken {d : Dom} (tag : Word) (hd : (s.domains.get d).state = .broken) :
    commitGroup d tag s = dropWrite .broken (modDomain d (fun x => { x with state := .empty }) s) := by
  have hx : (s.domains.get d).acknowledge = { s.domains.get d with state := .empty } := by
    simp [Domain.acknowledge, hd]
  rw [commitGroup, if_pos hd, commitToBroken, modDomain, hx]
  rfl

theorem slotFree_eq_false (h : s.queue.length = 32) : slotFree s = false := by
  simp [slotFree, h, Config.queueSlots]

theorem commitGroup_full {d : Dom} (tag : Word) (hd : takesWrites s d) (hq : s.queue.length = 32) :
    commitGroup d tag s = holdCommit d tag s := by
  rw [commitGroup, if_neg (ne_broken_of_takesWrites hd), slotFree_eq_false hq]
  rfl

/-- The examination of a commit in a full queue, its hold limit not expired (R28). -/
theorem examineCommit_full {p : Progress} {d : Dom} (tag : Word) (hp : s.host.port = .inProgress p)
    (hq : s.queue.length = 32) (hd : takesWrites s d) :
    (drainPending s = true → examineCommit false d tag s = s)
      ∧ (drainPending s = false → storeSound s →
        examineCommit false d tag s = commitBrokeAndDropped s d .queueFull [] (quietEnd p.ended)) := by
  simp only [examineCommit, slotFree_eq_false hq, Bool.false_eq_true, if_false]
  refine ⟨fun h => if_pos h, fun h hs => ?_⟩
  rw [h]
  exact commitToBroken_breakDomain .queueFull hp hs hd

/-- The state in which a commit that the queue has no slot for is examined: its domain is closing (R26, R28). -/
def commitWaits (s : State) (bus : HostBus) (d : Dom) : State :=
  setHost (heldNow (capturedWrite s bus) (.queueSlot d bus.hd))
    (modDomain d (fun x => { x with closing := true, autoPending := false, ageDue := false }) s)

theorem freeCount_commitWaits (s : State) (bus : HostBus) (d : Dom) :
    freeCount (commitWaits s bus d) = freeCount s := by
  cases d <;> rfl

theorem storeSound_commitWaits {bus : HostBus} {d : Dom} (h : storeSound s) : storeSound (commitWaits s bus d) := by
  have hu : usedEntries (commitWaits s bus d) = usedEntries s := by cases d <;> rfl
  unfold storeSound
  rw [hu, freeCount_commitWaits]
  exact h

theorem takesWrites_commitWaits {bus : HostBus} {d : Dom} (h : takesWrites s d) :
    takesWrites (commitWaits s bus d) d := by
  unfold takesWrites commitWaits
  rw [setHost_domains, modDomain_get_same]
  exact h

/-- A break forgets that the domain was closing. -/
theorem commitBrokeAndDropped_commitWaits (s : State) (bus : HostBus) (d : Dom) (c : BreakCause) (fs : List FlagId)
    (port : HostPort) :
    commitBrokeAndDropped (commitWaits s bus d) d c fs port = commitBrokeAndDropped s d c fs port := by
  cases d <;> rfl

end Commits

/-- Settles O33: a commit with the queue full waits only while drain is pending; an abort and a commit to BROKEN are
decided by the domain's state alone. -/
theorem commitCellWritesThatDoNotQueue : Obligations.CommitCellWritesThatDoNotQueue := by
  constructor
  · intro s bus d hw hb hl hp hc hne hd hq
    have harrive : exec (.hostAccessArrival bus) s = .next (examineCommit false d bus.hd (commitWaits s bus d)) := by
      refine congrArg Host.Outcome.next ?_
      rw [seeArrival_commitCell hw hb hl hp hc, if_neg hne, commitGroup_full (s := arrived s bus) _ hd hq]
      rfl
    obtain ⟨hheld, hbreak⟩ := examineCommit_full (s := commitWaits s bus d) bus.hd rfl hq (takesWrites_commitWaits hd)
    rw [harrive]
    refine ⟨fun he => ?_, fun he hs _ => ?_⟩
    · have hq' : s.queue ≠ [] := fun h => by rw [h] at hq; cases hq
      rw [hheld (drainPending_eq_true (s := s) hw hq' he)]
      rfl
    · rw [hbreak (drainPending_eq_false (s := s) (.inr he)) (storeSound_commitWaits hs),
        commitBrokeAndDropped_commitWaits]
      rfl
  · intro s bus d hw hb hl hp hc
    have harrive := seeArrival_commitCell hw hb hl hp hc
    refine ⟨fun ha hd hs => ?_, fun ha hd => ?_, fun ha hd => ?_, fun ha hd => ?_⟩ <;>
      refine congrArg Host.Outcome.next ?_
    · rw [harrive, if_pos ha]
      exact abortGroup_opened (s := arrived s bus) rfl hs hd
    · rw [harrive, if_pos ha]
      have hx : (s.domains.get d).aborted = s.domains.get d := by simp [Domain.aborted, hd]
      rw [abortGroup_of_same_group (s := arrived s bus) rfl hx rfl]
      exact congrArg (fun v => { s with domains := v, host := { s.host with port := .ending } })
        (Four.set_get_self s.domains d)
    · rw [harrive, if_pos ha]
      have hx : (s.domains.get d).aborted = { s.domains.get d with state := .empty } := by simp [Domain.aborted, hd]
      exact abortGroup_of_same_group (s := arrived s bus) rfl hx rfl
    · rw [harrive, if_neg ha, commitGroup_broken (s := arrived s bus) _ hd]
      exact dropWrite_eq (p := ⟨capturedWrite s bus, .deciding, 0, false, false⟩) .broken rfl

end Sys2Proof.Machine
end

section
/-! PROOFS. A commit that finds a free slot queues its group; the engine's one access stays the one that its state asks
for. -/

namespace Sys2Proof.Machine

/-! ### The engine's access -/

section Engine

variable {s : State}

/-- An arbitration leaves the engine's request waiting, or begins it (R135). -/
theorem engineOutstanding_arbitrate {p : Port} {r : Request} (hr : p.engineReq = some r) :
    engineOutstanding p.arbitrate = some r := by
  unfold Port.arbitrate
  split
  · next he =>
    split
    · exact hr
    · exact he.symm.trans hr
  · next he => exact nomatch he.symm.trans hr
  · next he => exact he.symm.trans hr
  · next he _ => exact nomatch he.symm.trans hr
  · next he _ => exact nomatch he.symm.trans hr

/-- A request of the engine that reaches a port where it has none is the one outstanding (R103, R135). -/
theorem engineOutstanding_post {p : Port} (r : Request) (h : engineOutstanding p = none) :
    engineOutstanding (p.post .engine r) = some r := by
  unfold Port.post
  cases ha : p.access with
  | some a =>
    have hreq : ¬a.requester = .engine := fun e => by simp [engineOutstanding, ha, e] at h
    simp [engineOutstanding, Port.wait, ha, hreq]
  | none => exact engineOutstanding_arbitrate rfl

theorem requestEngine_eq (s : State) : requestEngine s = { s with port := (requestEngine s).port } := by
  unfold requestEngine
  split <;> rfl

theorem engineRequest_requestEngine (s : State) : engineRequest (requestEngine s) = engineRequest s := by
  rw [requestEngine_eq]
  rfl

theorem engineOutstanding_requestEngine (h : engineOutstanding s.port = none) :
    engineOutstanding (requestEngine s).port = engineRequest s := by
  unfold requestEngine
  cases hr : engineRequest s with
  | none => exact h
  | some r => exact engineOutstanding_post r h

/-- Where the engine begins the head group its state and the array port change alone (R96). -/
theorem tryBegin_eq (s : State) : tryBegin s = { s with
    engine := { s.engine with state := if canBegin s then firstPhase s.straps else s.engine.state }
    port := (tryBegin s).port } := by
  unfold tryBegin
  split
  · exact requestEngine_eq _
  · rfl

theorem idle_of_canBegin (h : canBegin s = true) : s.engine.state = .idle := by
  simp only [canBegin, Bool.and_eq_true, decide_eq_true_eq] at h
  obtain ⟨⟨⟨hidle, _⟩, _⟩, _⟩ := h
  exact hidle

/-- An engine in IDLE makes no access, so the one that a begin requests is the only one (R103, R134). -/
theorem engineOutstanding_tryBegin (h : engineOutstanding s.port = engineRequest s) :
    engineOutstanding (tryBegin s).port = engineRequest (tryBegin s) := by
  unfold tryBegin
  split
  · next hc =>
    have hnone : engineRequest s = none := by rw [engineRequest, idle_of_canBegin hc]
    rw [beginHead, engineRequest_requestEngine]
    exact engineOutstanding_requestEngine (h.trans hnone)
  · exact h

/-- A group that joins the queue leaves the access that the engine makes for the head (R95, R97). -/
theorem engineRequest_of_append {t : State} (g : GroupRecord) (hq : t.queue = s.queue ++ [g])
    (hstate : t.engine.state = s.engine.state) (hst : t.straps = s.straps)
    (h : s.engine.state.inFlight = true → s.queue ≠ []) : engineRequest t = engineRequest s := by
  unfold engineRequest
  rw [hstate, hst, hq]
  cases he : s.engine.state with
  | copying i w | marking k | homing i =>
    rw [List.head?_append_of_ne_nil _ (h (by rw [he]; rfl))]
  | _ => rfl

end Engine

/-! ### A queued commit -/

section Commits

variable {s : State}

/-- The host's commit is queued: with the sync option on the access goes on held for sync, else it ends (R26, R30). -/
theorem commitQueued_eq {p : Progress} (d : Dom) (tag : Word) (hp : s.host.port = .inProgress p) :
    commitQueued d tag s = setHost
      (if (s.domains.get d).sync then .inProgress { p with hold := .sync d } else quietEnd p.ended)
      (queueGroup d tag (s.domains.get d).sync s) := by
  unfold commitQueued
  cases hsync : (s.domains.get d).sync with
  | true =>
    rw [if_pos rfl, if_pos rfl, setHold, queueGroup, bump_host, hp]
  | false => exact completeQuiet_eq (s := queueGroup d tag false s) hp

theorem slotFree_iff (s : State) : slotFree s = true ↔ s.queue.length < 32 := by
  rw [slotFree, decide_eq_true_eq, Config.queueSlots]

theorem commitGroup_free {d : Dom} (tag : Word) (hd : takesWrites s d) (hq : s.queue.length < 32) :
    commitGroup d tag s = tryBegin (commitQueued d tag s) := by
  rw [commitGroup, if_neg (ne_broken_of_takesWrites hd), if_pos ((slotFree_iff s).mpr hq)]

/-- The conditions of a begin (R96), right after a commit has queued its group in NORMAL. -/
theorem canBegin_eq {t : State} (hq : t.queue ≠ []) (hlow : t.power.low = false) :
    canBegin t = decide (t.engine.state = .idle ∧ t.engine.hold = false) := by
  simp [canBegin, hq, hlow]

end Commits

/-- Settles O32: the commit of a free slot, then the begin of an engine in IDLE. -/
theorem commitQueuesTheGroup : Obligations.CommitQueuesTheGroup := by
  intro s bus d hw hb hl hp hc hne hd hq he
  have hcommit : seeArrival bus s = tryBegin (commitQueued d bus.hd (arrived s bus)) := by
    rw [seeArrival_commitCell hw hb hl hp hc, if_neg hne]
    exact commitGroup_free (s := arrived s bus) bus.hd hd hq
  have hqueued := commitQueued_eq (s := arrived s bus) d bus.hd rfl
  obtain ⟨_, _, hlow⟩ := hw
  obtain ⟨hflight, hout, _⟩ := he
  have hcan : canBegin (commitQueued d bus.hd (arrived s bus))
      = decide (s.engine.state = .idle ∧ s.engine.hold = false) := by
    rw [hqueued]
    exact canBegin_eq (queue_queueGroup_ne_nil d bus.hd _ (arrived s bus)) hlow
  refine ⟨_, congrArg Host.Outcome.next hcommit, (tryBegin_eq _).trans ?_, engineOutstanding_tryBegin ?_⟩
  · rw [hcan, hqueued]
    simp only [decide_eq_true_eq]
    rfl
  · rw [hqueued]
    refine hout.trans (Eq.symm ?_)
    exact engineRequest_of_append (s := s) (recordOf s d bus.hd (s.domains.get d).sync) rfl rfl rfl hflight

end Sys2Proof.Machine
end

section
/-! PROOFS. The slot that the head's leaving frees in a full queue goes to the commit held for one, else to the
lowest-numbered pending domain. -/

namespace Sys2Proof.Machine

/-! ### The state in which the slot is free -/

/-- The head has left the queue of `s`, and nothing has been granted yet: the groups, the last tags, SEQ and the waiting
commit are those of `s`. -/
structure HeadLeft (s : State) (rest : List GroupRecord) (r : State) : Prop where
  queue : r.queue = rest
  seq : r.engine.seq = s.engine.seq
  abortval : r.abortval = s.abortval
  again : r.host.again = s.host.again
  domain : ∀ d, { r.domains.get d with appliedTag := (s.domains.get d).appliedTag } = s.domains.get d
  slot : ∀ p d tag, s.host.port = .inProgress p → p.hold = .queueSlot d tag → r.host.port = .inProgress p
  unheld : noneWaiting s → noneWaiting r

section Slots

variable {s r : State} {rest : List GroupRecord}

/-- A domain is that of `s` but for its applied tag. -/
theorem HeadLeft.field {α : Type} (h : HeadLeft s rest r) (d : Dom) (f : Domain → α)
    (hf : ∀ x tag, f { x with appliedTag := tag } = f x) : f (r.domains.get d) = f (s.domains.get d) :=
  (hf _ _).symm.trans (congrArg f (h.domain d))

theorem HeadLeft.recordOf_eq (h : HeadLeft s rest r) (d : Dom) (tag : Word) (b : Bool) :
    recordOf r d tag b = recordOf s d tag b := by
  have hcell := h.field d Domain.cell fun _ _ => rfl
  have hgroup := h.field d Domain.group fun _ _ => rfl
  simp only [recordOf, h.seq, hcell, hgroup]

theorem HeadLeft.autoTag_eq (h : HeadLeft s rest r) (d : Dom) : autoTag r d = autoTag s d := by
  have htag := h.field d Domain.lastTag fun _ _ => rfl
  simp only [autoTag, h.abortval, htag]

theorem HeadLeft.autoPending_eq (h : HeadLeft s rest r) (d : Dom) :
    (r.domains.get d).autoPending = (s.domains.get d).autoPending := h.field d Domain.autoPending fun _ _ => rfl

/-- A flow test after the release keeps the description. -/
theorem HeadLeft.flowAfterRelease (n : Nat) (h : HeadLeft s rest r) : HeadLeft s rest (flowAfterRelease n r) := by
  rw [flowAfterRelease_eq]
  exact ⟨h.queue, h.seq, h.abortval, h.again, h.domain, h.slot, h.unheld⟩

/-- The commit that waited for the head to retire completes; one that waits for a slot is another. -/
theorem HeadLeft.completeSync_if (b : Bool) (h : HeadLeft s rest r) :
    HeadLeft s rest (if b then completeSync r else r) := by
  cases b with
  | false => exact h
  | true =>
    rw [if_pos rfl]
    unfold completeSync
    split
    · next d hk =>
      obtain ⟨q, hq, hqk⟩ := heldFor_eq_some hk
      rw [completeQuiet_eq hq]
      refine ⟨h.queue, h.seq, h.abortval, h.again, h.domain, fun p e tag hp hpk => ?_, fun _ => ?_⟩
      · cases hq.symm.trans (h.slot p e tag hp hpk)
        cases hqk.symm.trans hpk
      · exact noneWaiting_of_not_inProgress (quietEnd_ne_inProgress q.ended)
    · exact h

/-! ### The grant -/

/-- The slot has gone to the commit `p` of domain d held for one (R29). -/
def CommitGranted (s : State) (rest : List GroupRecord) (p : Progress) (d : Dom) (tag : Word) (t : State) : Prop :=
  t.queue = rest ++ [recordOf s d tag (s.domains.get d).sync]
    ∧ (t.domains.get d).lastTag = tag ∧ (t.domains.get d).state = .empty ∧ (t.domains.get d).closing = false
    ∧ t.host.port = (if (s.domains.get d).sync then .inProgress { p with hold := .sync d } else quietEnd p.ended)
    ∧ ∀ e, e ≠ d → (t.domains.get e).autoPending = (s.domains.get e).autoPending

/-- The slot has gone to domain d, whose auto-commit was pending (R29, R37). -/
def PendingGranted (s : State) (rest : List GroupRecord) (d : Dom) (t : State) : Prop :=
  t.queue = rest ++ [recordOf s d (autoTag s d) false]
    ∧ (t.domains.get d).lastTag = autoTag s d ∧ (t.domains.get d).state = .empty
    ∧ (t.domains.get d).autoPending = false
    ∧ ∀ e, e ≠ d → (t.domains.get e).autoPending = (s.domains.get e).autoPending

theorem queueGroup_queue (d : Dom) (tag : Word) (b : Bool) (s : State) :
    (queueGroup d tag b s).queue = s.queue ++ [recordOf s d tag b] := rfl

theorem grantPending_of_full (d : Dom) (h : s.queue.length = 32) : grantPending s d = s := by
  simp [grantPending, slotFree_eq_false h]

theorem grantPending_of_not_pending {d : Dom} (h : (s.domains.get d).autoPending = false) : grantPending s d = s := by
  simp [grantPending, h]

theorem grantPending_of_pending {d : Dom} (ho : (s.domains.get d).state = .opened)
    (hp : (s.domains.get d).autoPending = true) (hq : s.queue.length < 32) :
    grantPending s d = queueGroup d (autoTag s d) false s := if_pos ⟨ho, hp, (slotFree_iff s).mpr hq⟩

theorem grantSlots_eq (s : State) :
    grantSlots s = grantPending (grantPending (grantPending (grantPending (grantCommit s) .i0) .i1) .i2) .i3 := rfl

/-- One slot goes to the commit held for it, and then the queue is full again. -/
theorem grantSlots_commit {p : Progress} {d : Dom} {tag : Word} (hp : s.host.port = .inProgress p)
    (hk : p.hold = .queueSlot d tag) (hq : s.queue.length = 31) : grantSlots s = commitQueued d tag s := by
  have hgrant : grantCommit s = commitQueued d tag s := by
    rw [grantCommit, heldFor, hp]
    dsimp only
    rw [hk]
    exact if_pos ((slotFree_iff s).mpr (by omega))
  have hfull : (commitQueued d tag s).queue.length = 32 := by
    rw [commitQueued_eq d tag hp, setHost_queue, queueGroup_queue, List.length_append, hq]
    rfl
  rw [grantSlots_eq, hgrant]
  simp only [grantPending_of_full _ hfull]

theorem grantCommit_of_noneWaiting (h : noneWaiting s) : grantCommit s = s := by
  unfold grantCommit
  split
  · next d tag hk =>
    obtain ⟨p, hp, hk⟩ := heldFor_eq_some hk
    exact absurd hk ((h p hp).2 d tag)
  · rfl

/-- With no commit held one slot goes to the lowest-numbered pending domain, and then the queue is full again. -/
theorem grantSlots_pending {d : Dom} (hn : noneWaiting s) (ho : (s.domains.get d).state = .opened)
    (hp : (s.domains.get d).autoPending = true)
    (hlow : ∀ e : Dom, e.toNat < d.toNat → (s.domains.get e).autoPending = false) (hq : s.queue.length = 31) :
    grantSlots s = queueGroup d (autoTag s d) false s := by
  have hfull : (queueGroup d (autoTag s d) false s).queue.length = 32 := by
    rw [queueGroup_queue, List.length_append, hq]
    rfl
  have hgrant : grantPending s d = queueGroup d (autoTag s d) false s :=
    grantPending_of_pending ho hp (by omega)
  have hskip : ∀ e : Dom, e.toNat < d.toNat → grantPending s e = s :=
    fun e he => grantPending_of_not_pending (hlow e he)
  rw [grantSlots_eq, grantCommit_of_noneWaiting hn]
  cases d with
  | i0 => simp only [hgrant, grantPending_of_full _ hfull]
  | i1 => simp only [hskip .i0 (by decide), hgrant, grantPending_of_full _ hfull]
  | i2 => simp only [hskip .i0 (by decide), hskip .i1 (by decide), hgrant, grantPending_of_full _ hfull]
  | i3 => simp only [hskip .i0 (by decide), hskip .i1 (by decide), hskip .i2 (by decide), hgrant]

/-- The end of a retire and of an ABANDON_HEAD (R29, R52, R96). -/
def grantAndBegin (r : State) : State := examine false (tryBegin (grantSlots r))

/-- A grant to the commit: the engine may begin, and no access is left for the examination. -/
theorem commitGranted_of_headLeft {p : Progress} {d : Dom} {tag : Word} (h : HeadLeft s rest r)
    (hlen : rest.length = 31) (hp : s.host.port = .inProgress p) (hk : p.hold = .queueSlot d tag) :
    CommitGranted s rest p d tag (grantAndBegin r) ∧ (grantAndBegin r).host.again = s.host.again := by
  have hrp := h.slot p d tag hp hk
  have hgrant : grantAndBegin r = tryBegin (commitQueued d tag r) := by
    rw [grantAndBegin, grantSlots_commit hrp hk (h.queue.symm ▸ hlen)]
    exact examine_of_noneWaiting false (noneWaiting_commitQueued d tag r)
  rw [hgrant, tryBegin_eq, commitQueued_eq d tag hrp]
  refine ⟨⟨?_, ?_, ?_, ?_, ?_, fun e he => ?_⟩, h.again⟩
  · exact (queueGroup_queue d tag _ r).trans (by rw [h.queue, h.recordOf_eq, h.field d Domain.sync fun _ _ => rfl])
  · exact congrArg Domain.lastTag (Four.get_set_same r.domains d _)
  · exact congrArg Domain.state (Four.get_set_same r.domains d _)
  · exact congrArg Domain.closing (Four.get_set_same r.domains d _)
  · rw [← h.field d Domain.sync fun _ _ => rfl]
    rfl
  · exact (congrArg Domain.autoPending (Four.get_set_of_ne r.domains _ he)).trans (h.autoPending_eq e)

/-- A grant to the lowest-numbered pending domain. -/
theorem pendingGranted_of_headLeft {d : Dom} (h : HeadLeft s rest r) (hlen : rest.length = 31) (hn : noneWaiting s)
    (ho : (s.domains.get d).state = .opened) (hp : (s.domains.get d).autoPending = true)
    (hlow : ∀ e : Dom, e.toNat < d.toNat → (s.domains.get e).autoPending = false) :
    PendingGranted s rest d (grantAndBegin r) ∧ (grantAndBegin r).host.again = s.host.again := by
  have hnr := h.unheld hn
  have hro := (h.field d Domain.state fun _ _ => rfl).trans ho
  have hgrant : grantAndBegin r = tryBegin (queueGroup d (autoTag r d) false r) := by
    rw [grantAndBegin, grantSlots_pending hnr hro ((h.autoPending_eq d).trans hp)
      (fun e he => (h.autoPending_eq e).trans (hlow e he)) (h.queue.symm ▸ hlen)]
    exact examine_of_noneWaiting false (noneWaiting_of_same_port (congrArg HostSide.port (host_tryBegin _)) hnr)
  rw [hgrant, tryBegin_eq, h.autoTag_eq]
  refine ⟨⟨?_, ?_, ?_, ?_, fun e he => ?_⟩, h.again⟩
  · exact (queueGroup_queue d _ _ r).trans (by rw [h.queue, h.recordOf_eq])
  · exact congrArg Domain.lastTag (Four.get_set_same r.domains d _)
  · exact congrArg Domain.state (Four.get_set_same r.domains d _)
  · exact congrArg Domain.autoPending (Four.get_set_same r.domains d _)
  · exact (congrArg Domain.autoPending (Four.get_set_of_ne r.domains _ he)).trans (h.autoPending_eq e)

/-! ### The two ways in which the head leaves -/

/-- A retire (R101): the head leaves, its tag is applied, the commit that waits for it completes. -/
theorem retire_eq {g : GroupRecord} (hq : s.queue = g :: rest) :
    ∃ r, retire s = grantAndBegin r ∧ HeadLeft s rest r := by
  refine ⟨_, by rw [retire, hq]; rfl, ?_⟩
  refine HeadLeft.completeSync_if g.sync (HeadLeft.flowAfterRelease _ ?_)
  refine ⟨rfl, rfl, rfl, rfl, fun d => ?_, fun p d tag hp _ => hp, id⟩
  simp only [setFlag_domains, bump_domains, modDomain_domains, setEngine_domains, Four.get_set]
  split
  · next hd => rw [hd]
  · rfl

theorem abandonHead_eq {g : GroupRecord} (hq : s.queue = g :: rest) :
    ∃ r, abandonHead s = grantAndBegin r ∧ HeadLeft s rest r := by
  refine ⟨_, by rw [abandonHead, hq]; rfl, ?_⟩
  exact HeadLeft.completeSync_if g.sync (HeadLeft.flowAfterRelease _
    ⟨rfl, rfl, rfl, rfl, fun d => rfl, fun p d tag hp _ => hp, id⟩)

/-- Where the head has left, its leaving describes the state before the array's access ended as well. -/
theorem HeadLeft.of_access (m : List Host.Cell) (p : Port) (h : HeadLeft { s with array := m, port := p } rest r) :
    HeadLeft s rest r := ⟨h.queue, h.seq, h.abortval, h.again, h.domain, h.slot, h.unheld⟩

/-- The accesses whose completion retires the head (R100 to R102): the write that empties the journal, or with the
journal off the last home write. -/
def retiresAt (s : State) (g : GroupRecord) : Prop :=
  s.engine.state = .clearing ∨ (s.engine.state = .homing g.entries.length ∧ journalOn s.straps = false)

theorem engineAccessDone_retires {g : GroupRecord} (w : Word) (hq : s.queue = g :: rest) (h : retiresAt s g) :
    engineAccessDone w s = retire s := by
  obtain h | ⟨h, hoff⟩ := h
  · rw [engineAccessDone, h]
  · simp [engineAccessDone, h, homingDone, headCount, hq, hoff]

theorem takeArdy_retires {g : GroupRecord} {a : ArrayAccess} (ad : Option Word) (hq : s.queue = g :: rest)
    (ha : s.port.access = some a) (he : a.requester = .engine) (h : retiresAt s g) :
    ∃ r, HeadLeft s rest r ∧ (noneAgain (grantAndBegin r) → takeArdy ad s = grantAndBegin r) := by
  obtain ⟨w, m, hm⟩ : ∃ w m, accessComplete ad s = engineAccessDone w { s with array := m, port := s.port.finish } := by
    simp only [accessComplete, ha, he]
    exact ⟨_, _, rfl⟩
  obtain ⟨r, hr, hleft⟩ := retire_eq (s := { s with array := m, port := s.port.finish }) hq
  refine ⟨r, hleft.of_access m _, fun hnone => ?_⟩
  rw [takeArdy, hm, engineAccessDone_retires (s := { s with array := m, port := s.port.finish }) _ hq h, hr]
  exact settle_of_noneAgain s hnone

theorem execAbandonHead_leaves {g : GroupRecord} {i : Nat} (hq : s.queue = g :: rest) (hs : framesSeen s)
    (h : s.engine.state = .faulted .copying i) :
    ∃ r, HeadLeft s rest r ∧ (noneAgain (grantAndBegin r) →
      exec (.abandonHead []) s = .next (acceptedFrame (snapshot s .ecmd) s (grantAndBegin r))) := by
  obtain ⟨r, hr, hleft⟩ := abandonHead_eq hq
  have hcmd : abandonHeadCmd s = (.ok, grantAndBegin r) := by rw [abandonHeadCmd, h, ← hr]
  exact ⟨r, hleft, fun hnone => congrArg _ (frameWith_accepted_of_noneAgain hs hcmd hnone)⟩

theorem exec_arrayAccessComplete (ad : Option Word) (s : State) :
    exec (.arrayAccessComplete ad) s = .next (takeArdy ad s) := rfl

theorem acceptedFrame_eq (w : Word) (s t : State) :
    acceptedFrame w s t = { t with mgmt := (acceptedFrame w s t).mgmt } := rfl

/-- Whichever command makes the head leave, the slot is granted in the same way; the records of a frame stand in the
management port alone. -/
theorem exec_leaves {c : Instr} {g : GroupRecord} (hq : s.queue = g :: rest)
    (hc : (∃ ad a, c = .arrayAccessComplete ad ∧ s.port.access = some a ∧ a.requester = .engine ∧ retiresAt s g)
      ∨ (c = .abandonHead [] ∧ framesSeen s ∧ ∃ i, s.engine.state = .faulted .copying i)) :
    ∃ r m, HeadLeft s rest r ∧ (noneAgain (grantAndBegin r) → exec c s = .next { grantAndBegin r with mgmt := m }) := by
  obtain ⟨ad, a, rfl, ha, he, h⟩ | ⟨rfl, hs, i, h⟩ := hc
  · obtain ⟨r, hleft, hr⟩ := takeArdy_retires ad hq ha he h
    refine ⟨r, (grantAndBegin r).mgmt, hleft, fun hnone => ?_⟩
    rw [exec_arrayAccessComplete, hr hnone]
  · obtain ⟨r, hleft, hr⟩ := execAbandonHead_leaves hq hs h
    refine ⟨r, (acceptedFrame (snapshot s .ecmd) s (grantAndBegin r)).mgmt, hleft, fun hnone => ?_⟩
    exact (hr hnone).trans (congrArg Host.Outcome.next (acceptedFrame_eq _ s (grantAndBegin r)))

end Slots

/-- Settles O43: the queue is one short of full where the slot is granted, and full again after one grant. -/
theorem freedSlotGoesToOneContender : Obligations.FreedSlotGoesToOneContender := by
  intro c s g rest hq hlen _ hnone hc
  have hrest : rest.length = 31 := by
    rw [hq, List.length_cons] at hlen
    omega
  obtain ⟨r, m, hleft, hexec⟩ := exec_leaves hq hc
  refine ⟨fun p d tag hp hk => ?_, fun hn d ho hp hlow => ?_⟩
  · obtain ⟨hgranted, hagain⟩ := commitGranted_of_headLeft hleft hrest hp hk
    exact ⟨_, hexec (hagain.trans hnone), hgranted⟩
  · obtain ⟨hgranted, hagain⟩ := pendingGranted_of_headLeft hleft hrest hn ho hp hlow
    exact ⟨_, hexec (hagain.trans hnone), hgranted⟩

end Sys2Proof.Machine
end

section
/-! PROOFS. The number of entries in groups and the store's own state as one view: what leaves it alone, what releases
entries, and the flow tests that keep it sound. -/

namespace Sys2Proof.Machine

/-! ### The view -/

/-- What `storeSound` looks at: how many entries stand in groups, the flow state and the thresholds. -/
structure Stored where
  used : Nat
  store : Store

/-- The view of a state. -/
def State.stored (s : State) : Stored := ⟨usedEntries s, s.store⟩

section View

variable (s : State)

theorem stored_setHold (k : Hold) : (setHold k s).stored = s.stored := by
  unfold setHold
  split <;> rfl

theorem stored_completeQuiet : (completeQuiet s).stored = s.stored := by
  unfold completeQuiet
  split <;> rfl

theorem stored_completeRead (w : Word) : (completeRead w s).stored = s.stored := by
  unfold completeRead
  split <;> rfl

theorem stored_dropWrite (c : DropCause) : (dropWrite c s).stored = s.stored := stored_completeQuiet _

theorem stored_dropParity : (dropParity s).stored = s.stored := stored_dropWrite _ .parity

theorem stored_requestEngine : (requestEngine s).stored = s.stored := by
  unfold requestEngine
  split <;> rfl

theorem stored_tryBegin : (tryBegin s).stored = s.stored := by
  unfold tryBegin
  split
  · exact stored_requestEngine _
  · rfl

theorem stored_completeSync : (completeSync s).stored = s.stored := by
  unfold completeSync
  split
  · exact stored_completeQuiet s
  · rfl

theorem stored_completeSync_if (b : Bool) : (if b then completeSync s else s).stored = s.stored := by
  cases b
  · rfl
  · exact stored_completeSync s

theorem stored_holdForRead (k : Hold) (a : Addr) : (holdForRead k a s).stored = s.stored := stored_setHold s k

theorem stored_classifiedRead (c : Class) (a : Addr) : (classifiedRead c a s).stored = s.stored := by
  unfold classifiedRead stagedRead
  split
  · exact stored_completeRead s _
  · exact stored_completeRead s _
  · split
    · split
      · exact stored_completeRead _ _
      · exact stored_holdForRead s _ a
    · exact stored_holdForRead s _ a
  all_goals exact stored_holdForRead s _ a

theorem stored_passWrite (a : Addr) (l : Lanes) (w : Word) (bad : Bool) :
    (passWrite a l w bad s).stored = s.stored := by
  unfold passWrite
  split
  · exact stored_dropParity s
  · exact stored_setHold s .passWrite

theorem stored_seeReturnIdle : (seeReturnIdle s).stored = s.stored := by
  unfold seeReturnIdle
  split <;> rfl

theorem stored_seeStrobesEnd : (seeStrobesEnd s).stored = s.stored := by
  unfold seeStrobesEnd
  split <;> rfl

theorem stored_hostAccessDone (w : Word) : (hostAccessDone w s).stored = s.stored := by
  unfold hostAccessDone hostReadDone
  split
  · exact stored_completeQuiet s
  · split
    · split
      · split <;> exact stored_completeRead _ _
      · exact stored_completeRead s w
      · rfl
    · rfl

theorem stored_hostTimedOut : (hostTimedOut s).stored = s.stored := by
  unfold hostTimedOut
  dsimp only
  split
  · exact stored_completeQuiet _
  · exact stored_completeRead _ _
  · exact stored_completeRead _ _
  · rfl

theorem stored_goOn (e : EngineState) : (goOn e s).stored = s.stored := stored_requestEngine _

theorem stored_replayOn (h : List Word) (rest : List JournalRecord) : (replayOn h rest s).stored = s.stored := by
  unfold replayOn
  split <;> exact stored_goOn s _

theorem stored_windowWrite (i : Fin 16) (w : Window) : (windowWrite i w s).2.stored = s.stored := by
  unfold windowWrite
  repeat' split
  all_goals rfl

theorem stored_winbaseWrite (i : Fin 16) (data : Word) : (winbaseWrite i data s).2.stored = s.stored := by
  unfold winbaseWrite
  split
  · rfl
  · exact stored_windowWrite s i _

theorem stored_hactWrite (data : Word) : (hactWrite data s).2.stored = s.stored := by
  unfold hactWrite
  repeat' split
  all_goals rfl

theorem stored_defactWrite (data : Word) : (defactWrite data s).2.stored = s.stored := by
  unfold defactWrite
  repeat' split
  all_goals rfl

/-! ### Domains and queues that hold as many entries as before -/

/-- One domain is replaced: the count changes by the difference of the two groups. -/
theorem usedEntries_modDomain (d : Dom) (f : Domain → Domain) :
    usedEntries (modDomain d f s) + (s.domains.get d).group.length
      = usedEntries s + (f (s.domains.get d)).group.length := by
  simp only [usedEntries, openEntries, modDomain]
  cases d <;> simp only [Four.set, Four.get] <;> omega

theorem stored_modDomain {d : Dom} {f : Domain → Domain}
    (h : (f (s.domains.get d)).group.length = (s.domains.get d).group.length) :
    (modDomain d f s).stored = s.stored := by
  have hu := usedEntries_modDomain s d f
  exact congrArg (Stored.mk · s.store) (by omega)

theorem stored_loadAge (d : Dom) : (loadAge d s).stored = s.stored := by
  unfold loadAge
  split
  · rfl
  · exact stored_modDomain s rfl

theorem stored_reloadIfIdle (d : Dom) : (reloadIfIdle d s).stored = s.stored := by
  unfold reloadIfIdle
  split
  · exact stored_loadAge s d
  · rfl

theorem stored_takeCoalesce (d : Dom) (a : Addr) (l : Lanes) (w : Word) :
    (takeCoalesce d a l w s).stored = s.stored := by
  rw [takeCoalesce, stored_completeQuiet, stored_reloadIfIdle]
  exact stored_modDomain (f := fun x => { x with group := coalesceInto x.group a l w }) s (List.length_map _)

theorem stored_commitToBroken (d : Dom) : (commitToBroken d s).stored = s.stored := by
  rw [commitToBroken, stored_dropWrite]
  refine stored_modDomain s ?_
  unfold Domain.acknowledge
  split <;> rfl

theorem stored_consumeHeldCommit : (consumeHeldCommit s).stored = s.stored := by
  unfold consumeHeldCommit
  split
  · exact stored_commitToBroken s _
  · rfl

theorem stored_clearSyncFlags : (clearSyncFlags s).stored = s.stored := by
  have hq : queuedEntries (clearSyncFlags s).queue = queuedEntries s.queue :=
    congrArg List.sum List.map_map
  exact congrArg (fun n => Stored.mk (openEntries s + n) s.store) hq

/-- A queued group takes its entries from the open group with it (R25). -/
theorem stored_queueGroup (d : Dom) (tag : Word) (b : Bool) : (queueGroup d tag b s).stored = s.stored := by
  have hu := usedEntries_modDomain s d (Domain.queued tag)
  have hq : queuedEntries (s.queue ++ [newRecord s d tag b])
      = queuedEntries s.queue + (s.domains.get d).group.length := by simp [queuedEntries, newRecord]
  have hg : ((s.domains.get d).queued tag).group.length = 0 := rfl
  have hmod : usedEntries (modDomain d (Domain.queued tag) s)
      = openEntries (modDomain d (Domain.queued tag) s) + queuedEntries s.queue := rfl
  have hqueue : usedEntries (queueGroup d tag b s)
      = openEntries (modDomain d (Domain.queued tag) s) + queuedEntries (s.queue ++ [newRecord s d tag b]) := rfl
  exact congrArg (Stored.mk · s.store) (by omega)

theorem stored_commitQueued (d : Dom) (tag : Word) : (commitQueued d tag s).stored = s.stored := by
  unfold commitQueued
  split
  · rw [stored_setHold, stored_queueGroup]
  · rw [stored_completeQuiet, stored_queueGroup]

theorem stored_grantCommit : (grantCommit s).stored = s.stored := by
  unfold grantCommit
  split
  · split
    · exact stored_commitQueued s _ _
    · rfl
  · rfl

theorem stored_grantPending (d : Dom) : (grantPending s d).stored = s.stored := by
  unfold grantPending
  split
  · exact stored_queueGroup s d _ false
  · rfl

theorem stored_grantSlots : (grantSlots s).stored = s.stored := by
  simp only [grantSlots, Ix4.all, List.foldl, stored_grantPending, stored_grantCommit]

/-- A tick moves counters; no entry comes or goes (R148). -/
theorem stored_tickCounts : (tickCounts s).stored = s.stored := by
  have hg : ∀ d, (tickAge s d).group = (s.domains.get d).group := fun d => by
    unfold tickAge
    dsimp only
    split <;> rfl
  have hticks : (tickArray (tickHold s)).queue = s.queue ∧ (tickArray (tickHold s)).store = s.store := by
    unfold tickArray tickHold
    repeat' split
    all_goals exact ⟨rfl, rfl⟩
  obtain ⟨hqueue, hstore⟩ := hticks
  simp only [State.stored, usedEntries, openEntries, tickCounts, Four.ofFn, hg, hqueue, hstore]
  rfl

end View

/-! ### Releases -/

/-- Entries may have gone since the state `s`, and no flow test has been made (R57). -/
structure ReleasedSince (s t : State) : Prop where
  store : t.store = s.store
  used : usedEntries t ≤ usedEntries s

namespace ReleasedSince

variable {s t : State}

theorem of_stored_eq (h : t.stored = s.stored) : ReleasedSince s t :=
  ⟨congrArg Stored.store h, (congrArg Stored.used h).le⟩

theorem congr {u : State} (h : ReleasedSince s t) (hu : u.stored = t.stored) : ReleasedSince s u :=
  ⟨(congrArg Stored.store hu).trans h.store, (congrArg Stored.used hu).trans_le h.used⟩

/-- A domain gives up its group, or keeps it. -/
theorem modDomain {d : Dom} {f : Domain → Domain} (h : ReleasedSince s t)
    (hf : (f (t.domains.get d)).group.length ≤ (t.domains.get d).group.length) :
    ReleasedSince s (modDomain d f t) := by
  have hu := usedEntries_modDomain t d f
  have hused := h.used
  exact ⟨h.store, by omega⟩

theorem breakCore (d : Dom) (c : BreakCause) (h : ReleasedSince s t) : ReleasedSince s (breakCore d c t) := by
  have hbroke : ReleasedSince s (Machine.modDomain d (Domain.broke c) t) := h.modDomain (Nat.zero_le _)
  unfold Machine.breakCore
  split
  · exact hbroke.congr rfl
  · exact hbroke.congr rfl
  · exact h
  · exact h

theorem breakIfOpen (c : BreakCause) (d : Dom) (h : ReleasedSince s t) : ReleasedSince s (breakIfOpen c t d) := by
  unfold Machine.breakIfOpen
  split
  · exact h.breakCore d c
  · exact h

theorem breakAll (c : BreakCause) (h : ReleasedSince s t) : ReleasedSince s (breakAll c t) :=
  (((h.breakIfOpen c .i0).breakIfOpen c .i1).breakIfOpen c .i2).breakIfOpen c .i3

/-- Groups leave the queue. -/
theorem queue {q : List GroupRecord} (h : ReleasedSince s t) (hq : q.Sublist t.queue) :
    ReleasedSince s { t with queue := q } := by
  have hle : queuedEntries q ≤ queuedEntries t.queue := (hq.map _).sum_le_sum fun _ _ => Nat.zero_le _
  exact ⟨h.store, (Nat.add_le_add_left hle (openEntries t)).trans h.used⟩

end ReleasedSince

theorem keptRecords_sublist (s : State) : (keptRecords s).Sublist s.queue := by
  unfold keptRecords
  split
  · exact List.take_sublist 1 s.queue
  · exact List.nil_sublist _

/-! ### A sound store, and the flow tests -/

/-- `storeSound` on the view, with a name for each part. -/
structure SoundStore (v : Stored) : Prop where
  capacity : v.used ≤ 512
  levels : v.store.stalllvl.toNat < v.store.resumelvl.toNat
  flowing : v.store.flow = .flowing → v.store.stalllvl.toNat < 512 - v.used
  throttled : v.store.flow = .throttled → 512 - v.used < v.store.resumelvl.toNat

theorem storeSound_iff (s : State) : storeSound s ↔ SoundStore s.stored := by
  have hsum : freeCount s + usedEntries s = 512 ↔ usedEntries s ≤ 512 := by
    rw [freeCount, Config.storeEntries]
    omega
  constructor
  · rintro ⟨htotal, hlevels, hflowing, hthrottled⟩
    exact ⟨hsum.mp htotal, hlevels, hflowing, hthrottled⟩
  · rintro ⟨hcapacity, hlevels, hflowing, hthrottled⟩
    exact ⟨hsum.mpr hcapacity, hlevels, hflowing, hthrottled⟩

theorem freeCount_eq (s : State) : freeCount s = 512 - usedEntries s := rfl

namespace SoundStore

variable {s : State}

/-- The flow test that one release makes: FLOWING has room above STALLLVL still, and THROTTLED ends where the free count
has risen to RESUMELVL (R48, R57). -/
theorem flowAfterRelease {t : State} (h : SoundStore s.stored) (hr : ReleasedSince s t) :
    SoundStore (flowAfterRelease (freeCount s) t).stored := by
  obtain ⟨hcapacity, hlevels, hflowing, hthrottled⟩ := h
  obtain ⟨hstore, hused⟩ := hr
  simp only [State.stored] at hcapacity hlevels hflowing hthrottled
  unfold Machine.flowAfterRelease
  rw [freeCount_eq, freeCount_eq, hstore]
  split
  · next hc =>
    obtain ⟨_, _, hresume⟩ := hc
    refine ⟨hused.trans hcapacity, hlevels, fun _ => hlevels.trans_le hresume, nofun⟩
  · next hc =>
    simp only [not_and, not_le] at hc
    have hview : t.stored = ⟨usedEntries t, s.store⟩ := congrArg (Stored.mk _) hstore
    rw [hview]
    refine ⟨hused.trans hcapacity, hlevels, fun hf => ?_, fun hf => ?_⟩ <;> dsimp only at hf ⊢
    · have := hflowing hf
      omega
    · have := hthrottled hf
      have := hc hf
      omega

end SoundStore

end Sys2Proof.Machine
end

section
/-! PROOFS. Every operation, every event and every management write keeps the store sound. -/

namespace Sys2Proof.Machine

namespace SoundStore

variable {s : State}

/-! ### The group protocol -/

theorem congr {t : State} (h : SoundStore s.stored) (ht : t.stored = s.stored) : SoundStore t.stored := ht ▸ h

theorem breakDomain (d : Dom) (c : BreakCause) (h : SoundStore s.stored) : SoundStore (breakDomain d c s).stored :=
  h.flowAfterRelease ((ReleasedSince.of_stored_eq rfl).breakCore d c)

/-- The flow test of a FLOWING store: it is throttled where the free count has come to STALLLVL (R48). -/
theorem flowAfterTake {t : State} (capacity : usedEntries t ≤ 512)
    (levels : t.store.stalllvl.toNat < t.store.resumelvl.toNat) (hf : t.store.flow = .flowing) :
    SoundStore (flowAfterTake t).stored := by
  unfold Machine.flowAfterTake
  rw [freeCount_eq]
  split
  · next hc => exact ⟨capacity, levels, nofun, fun _ => hc.2.trans_lt levels⟩
  · next hc =>
    exact ⟨capacity, levels, fun _ => Nat.lt_of_not_le fun hle => hc ⟨hf, hle⟩, fun ht => nomatch hf.symm.trans ht⟩

/-- In FLOWING an entry is free, so that a write can take one (R42, R48). -/
theorem takeNew (d : Dom) (a : Addr) (l : Lanes) (w : Word) (h : SoundStore s.stored) (hf : s.store.flow = .flowing) :
    SoundStore (takeNew d a l w s).stored := by
  have hu := usedEntries_modDomain s d fun x => { x with state := .opened, group := x.group ++ [newEntry a l w] }
  have hfree : s.store.stalllvl.toNat < 512 - usedEntries s := h.flowing hf
  have took : ∀ t : State, t.stored = (modDomain d
      (fun x => { x with state := .opened, group := x.group ++ [newEntry a l w] }) s).stored →
      SoundStore (Machine.flowAfterTake t).stored := by
    intro t ht
    have hused : usedEntries t = _ := congrArg Stored.used ht
    have hstore : t.store = s.store := congrArg Stored.store ht
    refine flowAfterTake ?_ (hstore ▸ h.levels) (hstore ▸ hf)
    rw [hused]
    simp only [List.length_append, List.length_singleton, State.stored] at hu ⊢
    omega
  unfold Machine.takeNew
  dsimp only
  rw [stored_completeQuiet]
  split
  · exact took _ (stored_reloadIfIdle _ d)
  · exact took _ (stored_loadAge _ d)

/-- A staged write is placed where the tests of R44 do not hold it: only in FLOWING does it take an entry. -/
theorem placeNow (d : Dom) (a : Addr) (l : Lanes) (w : Word) (h : SoundStore s.stored)
    (hp : coalesces s d a = true ∨ atCeiling s d = true ∨ s.store.flow = .flowing) :
    SoundStore (placeNow d a l w s).stored := by
  unfold Machine.placeNow
  split
  · exact h.congr (stored_takeCoalesce s d a l w)
  · next hc =>
    split
    · exact (h.breakDomain d .ceiling).congr (stored_dropWrite _ .broken)
    · next hat => exact h.takeNew d a l w ((hp.resolve_left hc).resolve_left hat)

theorem examineWrite (x : Bool) (d : Dom) (a : Addr) (l : Lanes) (w : Word) (h : SoundStore s.stored) :
    SoundStore (examineWrite x d a l w s).stored := by
  unfold Machine.examineWrite
  split
  · exact h.congr (stored_dropWrite s _)
  · split
    · exact h.congr (stored_dropWrite s .power)
    · split
      · next hf => exact h.placeNow d a l w (.inr (.inr hf))
      · split
        · exact (h.breakDomain d .hold).congr (stored_dropWrite _ .broken)
        · split
          · exact h
          · exact (h.breakDomain d .storeFull).congr (stored_dropWrite _ .broken)

theorem examineCommit (x : Bool) (d : Dom) (tag : Word) (h : SoundStore s.stored) :
    SoundStore (examineCommit x d tag s).stored := by
  unfold Machine.examineCommit
  split
  · exact h.congr ((stored_tryBegin _).trans (stored_commitQueued s d tag))
  · split
    · exact (h.breakDomain d .hold).congr (stored_commitToBroken _ d)
    · split
      · exact h
      · exact (h.breakDomain d .queueFull).congr (stored_commitToBroken _ d)

theorem examine (x : Bool) (h : SoundStore s.stored) : SoundStore (examine x s).stored := by
  unfold Machine.examine
  split
  · split
    · exact h.examineWrite x _ _ _ _
    · exact h.examineCommit x _ _
    · exact h
  · exact h

/-- A change outside the store and the entries, with an examination after it. -/
theorem examine_of_eq (x : Bool) {t : State} (h : SoundStore s.stored) (ht : t.stored = s.stored) :
    SoundStore (Machine.examine x t).stored := (h.congr ht).examine x

theorem beginAndExamine (h : SoundStore s.stored) : SoundStore (beginAndExamine s).stored := by
  unfold Machine.beginAndExamine
  split
  · exact h.examine_of_eq false (stored_requestEngine _)
  · exact h

/-! ### The host's events -/

theorem stagedWrite (d : Dom) (a : Addr) (l : Lanes) (w : Word) (bad : Bool) (h : SoundStore s.stored) :
    SoundStore (stagedWrite d a l w bad s).stored := by
  unfold Machine.stagedWrite
  split
  · exact (h.breakDomain d .parity).congr (stored_dropParity _)
  · split
    · exact h.congr (stored_dropWrite s .broken)
    · split
      · next hp => exact h.placeNow d a l w hp
      · exact h.examine_of_eq false (stored_setHold s _)

theorem aborted_group_le (x : Domain) : x.aborted.group.length ≤ x.group.length := by
  unfold Domain.aborted
  split <;> simp

theorem abortGroup (d : Dom) (h : SoundStore s.stored) : SoundStore (abortGroup d s).stored := by
  have hr : ReleasedSince s (modDomain d Domain.aborted s) :=
    (ReleasedSince.of_stored_eq rfl).modDomain (aborted_group_le _)
  exact (h.flowAfterRelease hr).congr (stored_completeQuiet _)

theorem commitGroup (d : Dom) (tag : Word) (h : SoundStore s.stored) : SoundStore (commitGroup d tag s).stored := by
  unfold Machine.commitGroup
  split
  · exact h.congr (stored_commitToBroken s d)
  · split
    · exact h.congr ((stored_tryBegin _).trans (stored_commitQueued s d tag))
    · exact h.examine_of_eq false ((stored_setHold _ _).trans (stored_modDomain s rfl))

theorem commitCellWrite (d : Dom) (l : Lanes) (w : Word) (bad : Bool) (h : SoundStore s.stored) :
    SoundStore (commitCellWrite d l w bad s).stored := by
  unfold Machine.commitCellWrite
  split
  · refine congr ?_ (stored_dropWrite _ .format)
    split
    · exact h.breakDomain d .format
    · exact h
  · split
    · exact (h.breakDomain d .parity).congr (stored_dropParity _)
    · split
      · exact h.abortGroup d
      · exact h.commitGroup d w

theorem presentAccess (a : Access) (h : SoundStore s.stored) : SoundStore (presentAccess a s).stored := by
  unfold Machine.presentAccess
  split
  · exact h.congr (stored_completeQuiet s)
  · exact h.congr (stored_classifiedRead s _ _)
  · split
    · exact h.congr (stored_completeQuiet s)
    · unfold classifiedWrite
      split
      · exact h.congr (stored_dropWrite s _)
      · split
        · exact h.commitCellWrite _ _ _ _
        · exact h.stagedWrite _ _ _ _ _
        · exact h.congr (stored_passWrite s _ _ _ _)
        · exact h
        · exact h
        · exact h

theorem arrive (a : Access) (h : SoundStore s.stored) : SoundStore (arrive a s).stored := by
  unfold Machine.arrive
  split
  · exact h
  · exact presentAccess (s := setHost _ s) a h

theorem settle (before : State) (h : SoundStore s.stored) : SoundStore (settle before s).stored := by
  unfold Machine.settle
  split
  · dsimp only
    split
    · exact arrive (s := { s with host := { s.host with again := none } }) _ h
    · exact h
  · exact h

theorem seeArrival (bus : HostBus) (h : SoundStore s.stored) : SoundStore (seeArrival bus s).stored := by
  unfold Machine.seeArrival
  split
  · exact h.arrive _
  · split
    · exact h
    · exact h
  · exact h

theorem releaseHeld (h : SoundStore s.stored) : SoundStore (releaseHeld s).stored := by
  unfold Machine.releaseHeld
  split
  · split
    · exact presentAccess (s := setHost _ s) _ h
    · exact h
  · exact h

/-! ### The engine's accesses -/

theorem enter (e : EngineState) (h : SoundStore s.stored) : SoundStore (enter e s).stored :=
  h.examine_of_eq false (stored_goOn s e)

/-- The end of a retire and of an ABANDON_HEAD: one flow test with the head's entries released, the waiting commit's
completion, and then the grant of the slot (R29, R57, R101, R109). -/
theorem grantAndBegin {t : State} (b : Bool) (h : SoundStore s.stored) (hr : ReleasedSince s t) :
    SoundStore (grantAndBegin (if b then completeSync (Machine.flowAfterRelease (freeCount s) t)
      else Machine.flowAfterRelease (freeCount s) t)).stored := by
  refine (h.flowAfterRelease hr).examine_of_eq false ?_
  rw [stored_tryBegin, stored_grantSlots, stored_completeSync_if]

theorem retire (h : SoundStore s.stored) : SoundStore (retire s).stored := by
  unfold Machine.retire
  split
  · exact h
  · next g rest hq =>
    have hr : ReleasedSince s { s with queue := rest } :=
      (ReleasedSince.of_stored_eq rfl).queue (hq ▸ List.sublist_cons_self g rest)
    have happlied : (modDomain g.domain (fun x => { x with appliedTag := g.tag })
        (setEngine .idle { s with queue := rest })).stored = { s with queue := rest : State }.stored :=
      stored_modDomain (setEngine .idle { s with queue := rest }) rfl
    exact h.grantAndBegin g.sync (hr.congr happlied)

theorem copyingDone (i w : Nat) (h : SoundStore s.stored) : SoundStore (copyingDone i w s).stored := by
  unfold Machine.copyingDone
  split
  · exact h.congr (stored_goOn s _)
  · split
    · exact h.congr (stored_goOn s _)
    · exact h.enter _

theorem markingDone (k : Nat) (h : SoundStore s.stored) : SoundStore (markingDone k s).stored := by
  unfold Machine.markingDone
  split
  · exact h.enter _
  · split <;> exact h.congr (stored_goOn s _)

theorem homingDone (i : Nat) (h : SoundStore s.stored) : SoundStore (homingDone i s).stored := by
  unfold Machine.homingDone
  split
  · exact h.congr (stored_goOn s _)
  · split
    · exact h.enter _
    · exact h.retire

theorem endRecovery (e : EngineState) (h : SoundStore s.stored) : SoundStore (endRecovery e s).stored :=
  releaseHeld (s := setEngine e s) h

theorem failRecovery (c : BlockCause) (h : SoundStore s.stored) : SoundStore (failRecovery c s).stored :=
  endRecovery (s := setFlag .recfail s) _ h

theorem headerRead (hd : List Word) (h : SoundStore s.stored) : SoundStore (headerRead hd s).stored := by
  unfold Machine.headerRead
  split
  · exact h.congr (stored_goOn s _)
  · split
    · exact h.congr (stored_goOn s _)
    · exact h.failRecovery _

theorem recordRead (hd ws : List Word) (h : SoundStore s.stored) : SoundStore (recordRead hd ws s).stored := by
  unfold Machine.recordRead
  split
  · exact h.congr (stored_goOn s _)
  · split
    · exact h.congr (stored_replayOn s _ _)
    · exact h.failRecovery _

theorem recoveryDone (r : Recovery) (w : Word) (h : SoundStore s.stored) : SoundStore (recoveryDone r w s).stored := by
  cases r with
  | marker =>
    unfold Machine.recoveryDone
    dsimp only
    split
    · exact h.headerRead _
    · exact h.endRecovery _
  | header read => exact h.headerRead _
  | records hd read => exact h.recordRead hd _
  | replay hd rest => exact h.congr (stored_replayOn s hd rest.tail)
  | finish hd => exact endRecovery (s := setFlag .recovered { s with engine := _ }) .idle h

theorem engineAccessDone (w : Word) (h : SoundStore s.stored) : SoundStore (engineAccessDone w s).stored := by
  unfold Machine.engineAccessDone
  split
  · exact h.recoveryDone _ w
  · split <;> exact h
  · exact h
  · exact h.copyingDone _ _
  · exact h.markingDone _
  · exact h.homingDone _
  · exact h.retire
  · exact h

theorem fault (p : Phase) (i : Nat) (h : SoundStore s.stored) : SoundStore (fault p i s).stored :=
  h.examine_of_eq false rfl

theorem engineTimedOut (h : SoundStore s.stored) : SoundStore (engineTimedOut s).stored := by
  have h1 : SoundStore (setFlag .array { s with port := { s.port with arrsrc := .engine } }).stored := h
  unfold Machine.engineTimedOut
  dsimp only
  split
  · exact h1.failRecovery .array
  · split <;> exact h
  · exact h
  · exact h1.fault _ _
  · exact h1.fault _ _
  · exact h1.fault _ _
  · exact h1.fault _ _
  · exact h

theorem accessComplete (ad : Option Word) (h : SoundStore s.stored) : SoundStore (accessComplete ad s).stored := by
  have h1 : ∀ m, SoundStore { s with array := m, port := s.port.finish }.stored := fun _ => h
  unfold Machine.accessComplete
  split
  · exact h
  · dsimp only
    split
    · exact (h1 _).congr (stored_hostAccessDone _ _)
    · exact (h1 _).engineAccessDone _
    · exact h

theorem accessTimeout (left : Option Word) (h : SoundStore s.stored) : SoundStore (accessTimeout left s).stored := by
  have h1 : SoundStore { s with array := interrupted left s, port := s.port.finish }.stored := h
  unfold Machine.accessTimeout
  split
  · exact h
  · split
    · dsimp only
      split
      · exact h1.congr (stored_hostTimedOut _)
      · exact h1.engineTimedOut
      · exact h
    · exact h

/-! ### Time and power -/

theorem holdExpiry (h : SoundStore s.stored) : SoundStore (holdExpiry s).stored := by
  unfold Machine.holdExpiry
  split
  · split
    · split
      · exact h.congr ((stored_completeQuiet _).trans (stored_clearSyncFlags s))
      · exact h.examine true
    · exact h
  · exact h

theorem ageExpiry (d : Dom) (h : SoundStore s.stored) : SoundStore (ageExpiry d s).stored := by
  have h1 : SoundStore (setFlag .age (modDomain d (fun x => { x with ageDue := false }) s)).stored :=
    congr (t := setFlag .age _) h (stored_modDomain (f := fun x => { x with ageDue := false }) s rfl)
  unfold Machine.ageExpiry
  split
  · dsimp only
    split
    · exact h1
    · split
      · exact (h1.congr (stored_queueGroup _ d _ false)).beginAndExamine
      · exact h1.congr (stored_modDomain _ rfl)
    · exact (h1.breakDomain d .age).examine false
  · exact h

theorem takeExpiry (e : Expiry) (h : SoundStore s.stored) : SoundStore (takeExpiry s e).stored := by
  refine settle s ?_
  cases e with
  | hold => exact h.holdExpiry
  | array left => exact h.accessTimeout left
  | age d => exact h.ageExpiry d

theorem foldl_takeExpiry (early : List Expiry) (h : SoundStore s.stored) :
    SoundStore (early.foldl Machine.takeExpiry s).stored := by
  induction early generalizing s with
  | nil => exact h
  | cons e es ih => exact ih (h.takeExpiry e)

theorem endHeldByPower (h : SoundStore s.stored) : SoundStore (endHeldByPower s).stored := by
  unfold Machine.endHeldByPower
  split
  · exact h.congr (stored_dropWrite s .power)
  · exact h.congr (stored_dropWrite s .power)
  · exact h.congr ((stored_completeQuiet _).trans (stored_clearSyncFlags s))
  · exact h

theorem powerEntry (h : SoundStore s.stored) : SoundStore (powerEntry s).stored := by
  have hlow : ReleasedSince s (setFlag .power { s with power := { s.power with low := true } }) := .of_stored_eq rfl
  exact (h.flowAfterRelease (hlow.breakAll .power)).endHeldByPower

theorem samplePwarn (low : Bool) (h : SoundStore s.stored) : SoundStore (samplePwarn low s).stored := by
  unfold Machine.samplePwarn
  dsimp only
  split
  · split
    · exact beginAndExamine (s := setFlag .powerok { s with power := _ }) h
    · exact h
  · split
    · exact powerEntry (s := { s with power := _ }) h
    · exact h

theorem takeEvent (e : Event) (h : SoundStore s.stored) : SoundStore (takeEvent s e).stored := by
  cases e with
  | hostArrival bus => exact h.seeArrival bus
  | hostReturnIdle => exact h.congr (stored_seeReturnIdle s)
  | hostStrobesEndEarly => exact h.congr (stored_seeStrobesEnd s)
  | holdExpiry => exact h.takeExpiry .hold
  | arrayComplete ad => exact (h.accessComplete ad).settle s
  | arrayTimeout left => exact h.takeExpiry (.array left)
  | tick low early => exact (((h.congr (stored_tickCounts s)).foldl_takeExpiry early).samplePwarn low).settle _
  | ageExpiry d => exact h.takeExpiry (.age d)

/-! ### Management writes -/

theorem abandonHead (h : SoundStore s.stored) : SoundStore (abandonHead s).stored := by
  unfold Machine.abandonHead
  split
  · exact h
  · next g rest hq =>
    have hr : ReleasedSince s { s with queue := rest } :=
      (ReleasedSince.of_stored_eq rfl).queue (hq ▸ List.sublist_cons_self g rest)
    exact h.grantAndBegin g.sync (hr.congr (u := setEngine .idle { s with queue := rest }) rfl)

theorem stageClear (h : SoundStore s.stored) : SoundStore (stageClear s).stored := by
  have hbroke : ReleasedSince s (consumeHeldCommit (breakAll .clear s)) :=
    ((ReleasedSince.of_stored_eq rfl).breakAll .clear).congr (stored_consumeHeldCommit _)
  have hq : (keptRecords s).Sublist (consumeHeldCommit (breakAll .clear s)).queue := by
    rw [queue_consumeHeldCommit, queue_breakAll]
    exact keptRecords_sublist s
  exact (h.flowAfterRelease ((hbroke.queue hq).congr (stored_completeSync_if _ _))).examine false

theorem ecmdWrite (code : Word) (h : SoundStore s.stored) : SoundStore (ecmdWrite code s).2.stored := by
  unfold Machine.ecmdWrite
  split
  · exact h
  · unfold holdOffCmd
    split
    · exact beginAndExamine (s := { s with engine := _ }) h
    · exact h
  · unfold retryCmd
    split
    · exact h.enter _
    · exact h
  · unfold abandonHeadCmd
    split
    · exact h.abandonHead
    · exact h
  · unfold stageClearCmd
    split
    · exact h
    · exact h
    all_goals exact h.stageClear
  · unfold recoverRetryCmd
    split
    · split
      · exact h
      · exact h.congr (stored_goOn _ _)
    · exact h
  · unfold journalDiscardCmd
    split
    · split
      · exact h
      · exact h.congr (stored_goOn s _)
    · exact h
  · exact h

/-- Thresholds in their order, with the flow test of a threshold write after them (R48, R49). -/
theorem flowRetest {t : State} (capacity : usedEntries t ≤ 512)
    (levels : t.store.stalllvl.toNat < t.store.resumelvl.toNat) : SoundStore (flowRetest t).stored := by
  unfold Machine.flowRetest
  split
  · next hf => exact flowAfterTake capacity levels hf
  · next ht =>
    rw [freeCount_eq]
    split
    · next hc => exact ⟨capacity, levels, fun _ => levels.trans_le hc, nofun⟩
    · next hc => exact ⟨capacity, levels, fun hf => (nomatch ht.symm.trans hf), fun _ => Nat.lt_of_not_le hc⟩

theorem stalllvlWrite (data : Word) (h : SoundStore s.stored) : SoundStore (stalllvlWrite data s).2.stored := by
  unfold Machine.stalllvlWrite
  split
  · exact h
  · next hr =>
    obtain ⟨_, hlt⟩ := not_or.mp hr
    exact examine false (flowRetest h.capacity (Nat.lt_of_not_le hlt))

theorem resumelvlWrite (data : Word) (h : SoundStore s.stored) : SoundStore (resumelvlWrite data s).2.stored := by
  unfold Machine.resumelvlWrite
  split
  · exact h
  · next hr =>
    obtain ⟨_, hr⟩ := not_or.mp hr
    obtain ⟨_, hlt⟩ := not_or.mp hr
    exact examine false (flowRetest h.capacity (Nat.lt_of_not_le hlt))

theorem dctlWrite (d : Dom) (data : Word) (h : SoundStore s.stored) : SoundStore (dctlWrite d data s).2.stored := by
  obtain e | ⟨act, e | ⟨_, e⟩ | ⟨_, e⟩⟩ := dctlWrite_states d data s <;> rw [e]
  · exact h
  all_goals exact h.congr (stored_modDomain s rfl)

theorem cchiWrite (d : Dom) (data : Word) (h : SoundStore s.stored) : SoundStore (cchiWrite d data s).2.stored := by
  obtain e | ⟨_, _, e⟩ := cchiWrite_cases d data s <;> rw [e]
  · exact h
  · exact h.congr (stored_modDomain s rfl)

theorem writeReg (r : Reg) (data : Word) (h : SoundStore s.stored) : SoundStore (writeReg r data s).2.stored := by
  have keep {c : Prop} [Decidable c] {a b : Status × State} (ha : SoundStore a.2.stored)
      (hb : SoundStore b.2.stored) : SoundStore (if c then a else b).2.stored :=
    keep_ite (P := fun t => SoundStore t.stored) ha hb
  have setting {d : Dom} {f : Domain → Domain} (hf : ∀ x, (f x).group = x.group) :
      SoundStore (modDomain d f s).stored := h.congr (stored_modDomain s (congrArg List.length (hf _)))
  cases r with
  | ecmd => exact h.ecmdWrite data
  | stalllvl => exact h.stalllvlWrite data
  | resumelvl => exact h.resumelvlWrite data
  | holdlim => exact keep h h
  | arrto => exact keep h h
  | starve => exact keep h h
  | agechain => exact keep h h
  | hact => exact h.congr (stored_hactWrite s data)
  | defact => exact h.congr (stored_defactWrite s data)
  | jaddr => exact keep h (keep h h)
  | hset k => exact keep h h
  | dctl d => exact h.dctlWrite d data
  | ceil d => exact keep h (keep h (setting fun _ => rfl))
  | cclo d => exact setting fun _ => rfl
  | cchi d => exact h.cchiWrite d data
  | agerld d => exact keep h (setting fun _ => rfl)
  | winbase i => exact h.congr (stored_winbaseWrite s i data)
  | winlim i => exact h.congr (stored_windowWrite s i _)
  | _ => exact h

/-! ### Every step -/

/-- After a reset the store is empty and FLOWING, its thresholds 16 and 48 (R61). -/
theorem cold (st : Straps) (held : Bool) (array : List Host.Cell) (pending : List Instr) :
    SoundStore (State.cold st held array pending).stored :=
  ⟨Nat.zero_le _, show 16 < 48 by decide, fun _ => show 16 < 512 by decide, nofun⟩

theorem keptByCourses : KeptByCourses fun s => SoundStore s.stored where
  mgmt _ _ h := h
  pending _ _ h := h
  event _ e h := h.takeEvent e
  settle before _ h := h.settle before
  reset st held array pending := (cold st held array pending).congr (stored_requestEngine _)
  writeReg _ r data h := h.writeReg r data

end SoundStore

/-- Settles O53: entries are taken in FLOWING alone, where one is free, and released before a flow test; a queued group
takes its entries with it; the threshold writes keep RESUMELVL above STALLLVL and test the flow state again. -/
theorem stepsKeepStoreSound : Obligations.StepsKeepStoreSound := by
  intro s t hs h
  rw [storeSound_iff] at hs ⊢
  exact SoundStore.keptByCourses.step h hs

end Sys2Proof.Machine
end

section
/-! PROOFS. Staged writes that are taken: the age counter after them, the new entry with its flow test, the entry that a
coalescing write leaves. -/

namespace Sys2Proof.Machine

section Taken

variable {s : State}

/-! ### The age counter after a write -/

/-- A domain with its age counter and its due mark replaced. -/
def Domain.aged (v : Word × Bool) (x : Domain) : Domain := { x with age := v.1, ageDue := v.2 }

/-- An update that leaves of a domain what decides its age counter after a write (R145 to R147). -/
structure KeepsAge (f : Domain → Domain) : Prop where
  age : ∀ x, (f x).age = x.age
  ageDue : ∀ x, (f x).ageDue = x.ageDue
  agerld : ∀ x, (f x).agerld = x.agerld
  ageMode : ∀ x, (f x).ageMode = x.ageMode
  autoPending : ∀ x, (f x).autoPending = x.autoPending

theorem KeepsAge.aged_self {f : Domain → Domain} (hf : KeepsAge f) (x : Domain) :
    (f x).aged (x.age, x.ageDue) = f x := by
  rw [← hf.age, ← hf.ageDue]
  rfl

/-- The reload value looks at the chain settings and at the AGERLD registers alone (R145, R149). -/
theorem ageReload_congr {t : State} (ticks : t.ticks = s.ticks)
    (agerld : ∀ d, (t.domains.get d).agerld = (s.domains.get d).agerld) (d : Dom) : ageReload t d = ageReload s d := by
  have h0 : t.domains.at0.agerld = s.domains.at0.agerld := agerld .i0
  have h1 : t.domains.at1.agerld = s.domains.at1.agerld := agerld .i1
  have h2 : t.domains.at2.agerld = s.domains.at2.agerld := agerld .i2
  have h3 : t.domains.at3.agerld = s.domains.at3.agerld := agerld .i3
  cases d <;> simp only [ageReload, ticks, h0, h1, h2, h3]

theorem ageReload_modDomain {f : Domain → Domain} (hf : KeepsAge f) (d e : Dom) (s : State) :
    ageReload (modDomain d f s) e = ageReload s e := by
  refine ageReload_congr (modDomain_ticks d f s) (fun d' => ?_) e
  rw [modDomain_domains, Four.get_set]
  split
  · next hd => exact hd ▸ hf.agerld _
  · rfl

theorem modDomain_modDomain (d : Dom) (f g : Domain → Domain) (s : State) :
    modDomain d g (modDomain d f s) = modDomain d (fun x => g (f x)) s := by
  simp only [modDomain, Four.get_set_same, Four.set_set]

/-- The counter that a load leaves: the upper domain of a chained pair keeps its own (R149). -/
def loadedAge (s : State) (d : Dom) : Word × Bool :=
  if upperChained s.ticks d then ((s.domains.get d).age, (s.domains.get d).ageDue) else (ageReload s d, false)

/-- A load after an update that left the age counter. -/
theorem loadAge_modDomain {f : Domain → Domain} (hf : KeepsAge f) (d : Dom) (s : State) :
    loadAge d (modDomain d f s) = modDomain d (fun x => (f x).aged (loadedAge s d)) s := by
  unfold loadAge loadedAge
  rw [modDomain_ticks, ageReload_modDomain hf, modDomain_modDomain]
  split
  · simp only [modDomain, hf.aged_self]
  · rfl

/-- A write taken from EMPTY loads the counter (R146). -/
theorem ageAfterWrite_of_empty {d : Dom} (h : (s.domains.get d).state = .empty) :
    ageAfterWrite s d = loadedAge s d := by
  cases hu : upperChained s.ticks d <;> simp [ageAfterWrite, loadedAge, h, hu]

/-- A write taken in OPEN reloads the counter in IDLE mode, unless auto-commit is pending (R147). -/
theorem ageAfterWrite_of_opened {d : Dom} (h : (s.domains.get d).state = .opened) :
    ageAfterWrite s d
      = if (s.domains.get d).ageMode = .idle ∧ (s.domains.get d).autoPending = false then loadedAge s d
        else ((s.domains.get d).age, (s.domains.get d).ageDue) := by
  cases hu : upperChained s.ticks d <;> simp [ageAfterWrite, loadedAge, h, hu]

theorem reloadIfIdle_modDomain {f : Domain → Domain} (hf : KeepsAge f) {d : Dom}
    (h : (s.domains.get d).state = .opened) :
    reloadIfIdle d (modDomain d f s) = modDomain d (fun x => (f x).aged (ageAfterWrite s d)) s := by
  unfold reloadIfIdle
  rw [modDomain_get_same, hf.ageMode, hf.autoPending, ageAfterWrite_of_opened h, loadAge_modDomain hf]
  split
  · rfl
  · simp only [modDomain, hf.aged_self]

theorem loadAge_bump (c : CounterId) (d : Dom) (s : State) : loadAge d (bump c s) = bump c (loadAge d s) := by
  unfold loadAge
  rw [bump_ticks]
  split <;> rfl

theorem reloadIfIdle_bump (c : CounterId) (d : Dom) (s : State) :
    reloadIfIdle d (bump c s) = bump c (reloadIfIdle d s) := by
  unfold reloadIfIdle
  rw [bump_domains, loadAge_bump]
  split <;> rfl

/-! ### A new entry -/

/-- What a staged write makes of its domain at first: OPEN, with the new entry at the end of the group (R22, R45). -/
def Domain.withEntry (e : Entry) (x : Domain) : Domain := { x with state := .opened, group := x.group ++ [e] }

theorem keepsAge_withEntry (e : Entry) : KeepsAge (Domain.withEntry e) :=
  ⟨fun _ => rfl, fun _ => rfl, fun _ => rfl, fun _ => rfl, fun _ => rfl⟩

/-- The state after the entry is taken and the counter loaded, before the flow test. -/
def entryAdded (s : State) (d : Dom) (e : Entry) : State :=
  bump .writesStaged (modDomain d (fun x => (x.withEntry e).aged (ageAfterWrite s d)) s)

theorem takeNew_eq_entryAdded {d : Dom} (a : Addr) (l : Lanes) (w : Word) (hd : takesWrites s d) :
    takeNew d a l w s = completeQuiet (flowAfterTake (entryAdded s d (newEntry a l w))) := by
  have hkeep := keepsAge_withEntry (newEntry a l w)
  unfold takeNew entryAdded
  dsimp only
  obtain he | ho := hd
  · rw [if_neg (by rw [he]; nofun), loadAge_bump, ageAfterWrite_of_empty he]
    exact congrArg (fun t => completeQuiet (flowAfterTake (bump _ t))) (loadAge_modDomain hkeep d s)
  · rw [if_pos ho, reloadIfIdle_bump]
    exact congrArg (fun t => completeQuiet (flowAfterTake (bump _ t))) (reloadIfIdle_modDomain hkeep ho)

theorem freeCount_entryAdded (s : State) (d : Dom) (e : Entry) : freeCount (entryAdded s d e) = freeCount s - 1 := by
  have hu := usedEntries_modDomain s d fun x => (x.withEntry e).aged (ageAfterWrite s d)
  have hlen : ∀ x : Domain, ((x.withEntry e).aged (ageAfterWrite s d)).group.length = x.group.length + 1 :=
    fun x => List.length_append
  have hbump : usedEntries (entryAdded s d e)
      = usedEntries (modDomain d (fun x => (x.withEntry e).aged (ageAfterWrite s d)) s) := rfl
  rw [hlen] at hu
  rw [freeCount_eq, freeCount_eq, hbump]
  omega

/-- The flow test after the entry (R48). -/
theorem flowAfterTake_entryAdded (s : State) (d : Dom) (e : Entry) :
    flowAfterTake (entryAdded s d e) = { entryAdded s d e with
      store := { s.store with flow := if takeThrottles s then .throttled else s.store.flow }
      mgmt := if takeThrottles s then s.mgmt.noted [.throttle] [.writesStaged, .stallEvents]
        else s.mgmt.noted [] [.writesStaged] } := by
  have hstore : (entryAdded s d e).store = s.store := rfl
  unfold flowAfterTake
  rw [freeCount_entryAdded, hstore]
  by_cases h : s.store.flow = .flowing ∧ freeCount s - 1 ≤ s.store.stalllvl.toNat
  · rw [if_pos h, takeThrottles, decide_eq_true h]
    rfl
  · rw [if_neg h, takeThrottles, decide_eq_false h]
    rfl

/-- A staged write is taken into a new entry (R22, R45, R48, R146, R147). -/
theorem takeNew_eq {p : Progress} {d : Dom} (a : Addr) (l : Lanes) (w : Word) (hp : s.host.port = .inProgress p)
    (hd : takesWrites s d) : takeNew d a l w s = tookEntry s d a l w (quietEnd p.ended) := by
  rw [takeNew_eq_entryAdded a l w hd, flowAfterTake_entryAdded]
  exact completeQuiet_eq (p := p) (by exact hp)

theorem placeNow_new {p : Progress} {d : Dom} {a : Addr} (l : Lanes) (w : Word) (hp : s.host.port = .inProgress p)
    (hd : takesWrites s d) (hc : coalesces s d a = false) (hat : ¬atCeiling s d = true) :
    placeNow d a l w s = tookEntry s d a l w (quietEnd p.ended) := by
  rw [placeNow, hc, if_neg Bool.false_ne_true, if_neg hat]
  exact takeNew_eq a l w hp hd

/-! ### A coalescing write -/

theorem keepsAge_coalesced (a : Addr) (l : Lanes) (w : Word) :
    KeepsAge fun x => { x with group := coalesceInto x.group a l w } :=
  ⟨fun _ => rfl, fun _ => rfl, fun _ => rfl, fun _ => rfl, fun _ => rfl⟩

/-- A staged write coalesces into the entry of its address (R46, R147). -/
theorem takeCoalesce_eq {p : Progress} {d : Dom} (a : Addr) (l : Lanes) (w : Word)
    (hp : s.host.port = .inProgress p) (hd : (s.domains.get d).state = .opened) :
    takeCoalesce d a l w s = { s with
      domains := s.domains.set d { s.domains.get d with
        group := coalesceInto (s.domains.get d).group a l w
        age := (ageAfterWrite s d).1
        ageDue := (ageAfterWrite s d).2 }
      host := { s.host with port := quietEnd p.ended }
      mgmt := s.mgmt.noted [] [.coalesced] } := by
  rw [takeCoalesce, reloadIfIdle_bump, reloadIfIdle_modDomain (keepsAge_coalesced a l w) hd]
  exact completeQuiet_eq hp

theorem coalesces_eq_true {d : Dom} {a : Addr} (hd : (s.domains.get d).state = .opened)
    (h : ∃ e ∈ (s.domains.get d).group, e.addr = a) : coalesces s d a = true := by
  obtain ⟨e, he, ha⟩ := h
  simp only [coalesces, holdsAddr, hd, beq_self_eq_true, Bool.true_and]
  exact List.any_eq_true.mpr ⟨e, he, beq_iff_eq.mpr ha⟩

/-! ### The controller's decision -/

/-- A staged write of good parity that the tests of R44 place at once. -/
theorem stagedWrite_placed {d : Dom} {a : Addr} (l : Lanes) (w : Word) (hb : (s.domains.get d).state ≠ .broken)
    (h : coalesces s d a = true ∨ s.store.flow = .flowing) :
    stagedWrite d a l w false s = placeNow d a l w s := by
  rw [stagedWrite, if_neg Bool.false_ne_true, if_neg hb, if_pos (h.imp_right .inr)]

end Taken

/-- Settles O28: a staged write of good parity is placed at once in both cases; the first finds neither an entry of its
address nor the ceiling. -/
theorem stagedWritesTaken : Obligations.StagedWritesTaken := by
  constructor
  · intro s bus d hw hb hp hc hd hroom hf
    have hnew : coalesces s d bus.ha = false := coalesces_eq_false fun h => (hroom h).1
    have hat : ¬atCeiling s d = true := fun h => by
      obtain ⟨hopen, hle⟩ := (atCeiling_iff s d).mp h
      exact absurd hle (Nat.not_le.mpr (hroom hopen).2)
    refine congrArg Host.Outcome.next ?_
    rw [seeArrival_staged hw hb hp hc (enabled_of_takesWrites hd),
      stagedWrite_placed (s := arrived s bus) _ _ (ne_broken_of_takesWrites hd) (.inr hf)]
    exact placeNow_new (s := arrived s bus) _ _ rfl hd hnew hat
  · intro s bus d hw hb hp hc hd hheld
    have hcoal : coalesces s d bus.ha = true := coalesces_eq_true hd hheld
    refine congrArg Host.Outcome.next ?_
    rw [seeArrival_staged hw hb hp hc (enabled_of_opened hd),
      stagedWrite_placed (s := arrived s bus) _ _ (ne_broken_of_takesWrites (.inr hd)) (.inl hcoal), placeNow]
    refine (if_pos hcoal).trans ?_
    exact takeCoalesce_eq (s := arrived s bus) _ _ _ rfl hd

end Sys2Proof.Machine
end

section
/-! PROOFS. The writes of STALLLVL and RESUMELVL: the flow test under the new thresholds, then the examination of an access
held for space or for a slot. -/

namespace Sys2Proof.Machine

section Thresholds

variable {s : State}

/-! ### The flow test of a threshold write -/

/-- The state of the store under a new STALLLVL (R48, R49). -/
def stallRetested (s : State) (data : Word) : State :=
  if s.store.flow = .flowing ∧ freeCount s ≤ data.toNat then
    { s with store := ⟨.throttled, data, s.store.resumelvl⟩, mgmt := s.mgmt.noted [.throttle] [.stallEvents] }
  else { s with store := ⟨s.store.flow, data, s.store.resumelvl⟩ }

/-- The state of the store under a new RESUMELVL (R48, R49). -/
def resumeRetested (s : State) (data : Word) : State :=
  { s with store := ⟨if data.toNat ≤ freeCount s then .flowing else s.store.flow, s.store.stalllvl, data⟩ }

theorem freeCount_withStore (v : Store) (s : State) : freeCount { s with store := v } = freeCount s := rfl

/-- A new STALLLVL can throttle a FLOWING store; a THROTTLED one stays below its RESUMELVL. -/
theorem flowRetest_stalllvl (data : Word) (hs : storeSound s) :
    flowRetest { s with store := { s.store with stalllvl := data } } = stallRetested s data := by
  obtain ⟨_, _, _, hthrottled⟩ := hs
  unfold flowRetest stallRetested
  cases hf : s.store.flow with
  | flowing =>
    dsimp only
    unfold flowAfterTake
    dsimp only
    rw [freeCount_withStore, hf]
    split <;> rfl
  | throttled =>
    dsimp only
    rw [freeCount_withStore, if_neg (Nat.not_le.mpr (hthrottled hf)), if_neg (fun h => nomatch h.1), hf]

/-- A new RESUMELVL can return a THROTTLED store to FLOWING; a FLOWING one stays above its STALLLVL. -/
theorem flowRetest_resumelvl (data : Word) (hs : storeSound s) :
    flowRetest { s with store := { s.store with resumelvl := data } } = resumeRetested s data := by
  obtain ⟨_, _, hflowing, _⟩ := hs
  unfold flowRetest resumeRetested
  cases hf : s.store.flow with
  | flowing =>
    dsimp only
    unfold flowAfterTake
    dsimp only
    rw [freeCount_withStore, hf, if_neg fun h => Nat.not_le.mpr (hflowing hf) h.2, ite_self]
  | throttled =>
    dsimp only
    rw [freeCount_withStore]
    split
    · rfl
    · rw [hf]

theorem stalllvlWrite_range {data : Word} (h : 255 < data.toNat ∨ s.store.resumelvl.toNat ≤ data.toNat) :
    stalllvlWrite data s = (.range, s) := if_pos h

theorem stalllvlWrite_ok {data : Word} (hs : storeSound s) (hle : data.toNat ≤ 255)
    (hlt : data.toNat < s.store.resumelvl.toNat) :
    stalllvlWrite data s = (.ok, examine false (stallRetested s data)) := by
  rw [stalllvlWrite, if_neg (by omega), flowRetest_stalllvl data hs]

theorem resumelvlWrite_range {data : Word}
    (h : data.toNat = 0 ∨ 511 < data.toNat ∨ data.toNat ≤ s.store.stalllvl.toNat) :
    resumelvlWrite data s = (.range, s) := if_pos (h.imp_left (eq_zero_iff_toNat data).mpr)

theorem resumelvlWrite_ok {data : Word} (hs : storeSound s) (hle : data.toNat ≤ 511)
    (hlt : s.store.stalllvl.toNat < data.toNat) :
    resumelvlWrite data s = (.ok, examine false (resumeRetested s data)) := by
  rw [resumelvlWrite, if_neg (by rw [eq_zero_iff_toNat]; omega), flowRetest_resumelvl data hs]

/-! ### The examination after it -/

/-- An examination of a staged write held for space (R53). -/
theorem examine_of_storeSpace {p : Progress} {d : Dom} {a : Addr} {l : Lanes} {w : Word} {hdp : Option (BitVec 2)}
    (expired : Bool) (hp : s.host.port = .inProgress p) (hk : p.hold = .storeSpace d)
    (ha : p.access = .write a l w hdp) : examine expired s = examineWrite expired d a l w s := by
  simp only [examine, hp, hk, ha]

/-- An examination of a commit held for a slot (R28). -/
theorem examine_of_queueSlot {p : Progress} {d : Dom} {tag : Word} (expired : Bool)
    (hp : s.host.port = .inProgress p) (hk : p.hold = .queueSlot d tag) :
    examine expired s = examineCommit expired d tag s := by
  simp only [examine, hp, hk]

/-- A commit held for a slot stays held while drain is pending, in a state whose store alone has changed, with flags and
counters (R28). -/
theorem examine_heldCommit {t : State} {p : Progress} {d : Dom} {tag : Word} (h : heldCommit s p d tag)
    (he : s.engine.state.stopped = false) (ht : ∃ v m, t = { s with store := v, mgmt := m }) : examine false t = t := by
  obtain ⟨hp, hk, hsound⟩ := h
  rw [holdSound, hk] at hsound
  obtain ⟨htakes, _, hfull, hlow⟩ := hsound
  have hq : s.queue ≠ [] := fun h => by simp [h] at hfull
  obtain ⟨v, m, rfl⟩ := ht
  obtain ⟨hheld, _⟩ := examineCommit_full (s := { s with store := v, mgmt := m }) tag hp hfull htakes
  exact (examine_of_queueSlot (s := { s with store := v, mgmt := m }) false hp hk).trans
    (hheld (by simp [drainPending, hq, he, hlow]))

/-- The examination of a staged write held for space, its hold limit not expired (R53, R54). -/
theorem examineWrite_eq {p : Progress} {d : Dom} {a : Addr} (l : Lanes) (w : Word) (hp : s.host.port = .inProgress p)
    (hd : takesWrites s d) (hlow : s.power.low = false) (hnew : ∀ e ∈ (s.domains.get d).group, e.addr ≠ a)
    (hs : storeSound s) : examineWrite false d a l w s = examinedWrite s d a l w (quietEnd p.ended) := by
  have hc : coalesces s d a = false := coalesces_eq_false fun _ => hnew
  unfold examinedWrite
  dsimp only
  cases hf : s.store.flow with
  | flowing =>
    have hplace : examineWrite false d a l w s = placeNow d a l w s := by
      rw [examineWrite, if_neg (ne_broken_of_takesWrites hd), hlow, if_neg Bool.false_ne_true, if_pos hf]
    rw [hplace, if_pos rfl]
    by_cases hat : (s.domains.get d).state = .opened ∧ (s.domains.get d).ceil.toNat ≤ (s.domains.get d).group.length
    · rw [if_pos hat, placeNow, hc, if_neg Bool.false_ne_true, if_pos ((atCeiling_iff s d).mpr hat)]
      exact dropWrite_breakDomain .ceiling hp hs hd
    · rw [if_neg hat]
      exact placeNow_new l w hp hd hc fun h => hat ((atCeiling_iff s d).mp h)
  | throttled =>
    obtain ⟨hheld, hbreak⟩ := examineWrite_throttled a l w hp hd hlow hf
    rw [if_neg (by nofun)]
    by_cases hdrain : s.queue ≠ [] ∧ s.engine.state.stopped = false
    · rw [if_pos hdrain]
      exact hheld (by simp [drainPending, hdrain, hlow])
    · rw [if_neg hdrain]
      refine hbreak ?_ hs
      simpa [drainPending, hlow, imp_iff_not_or] using hdrain

/-- A staged write held for space is examined in a state whose store alone has changed, with flags and counters. -/
theorem examine_heldWrite {t : State} {p : Progress} {d : Dom} {a : Addr} {l : Lanes} {w : Word}
    (h : heldWrite s p d a l w) (ht : ∃ v m, t = { s with store := v, mgmt := m }) (hs : storeSound t) :
    examine false t = examinedWrite t d a l w (quietEnd p.ended) := by
  obtain ⟨hp, hk, ⟨hdp, ha⟩, hsound⟩ := h
  rw [holdSound, hk] at hsound
  obtain ⟨htakes, _, hlow, a', l', w', hdp', ha', _, hnew⟩ := hsound
  cases ha.symm.trans ha'
  obtain ⟨v, m, rfl⟩ := ht
  exact (examine_of_storeSpace (s := { s with store := v, mgmt := m }) false hp hk ha).trans
    (examineWrite_eq l w hp htakes hlow hnew hs)

theorem host_again_examinedWrite (r : State) (d : Dom) (a : Addr) (l : Lanes) (w : Word) (port : HostPort) :
    (examinedWrite r d a l w port).host.again = r.host.again := by
  unfold examinedWrite
  dsimp only
  repeat' split
  all_goals rfl

/-! ### The frame around it -/

/-- An accepted threshold write, in every case of what the Host Port holds. -/
theorem frameWith_thresholdWrite {r : Reg} {effect : State → Status × State} {t : State} (hf : framesSeen s)
    (hn : noneAgain s) (he : effect s = (.ok, examine false t)) (ht : ∃ v m, t = { s with store := v, mgmt := m })
    (hs : storeSound t) :
    (noneWaiting s ∨ ((∃ p d tag, heldCommit s p d tag) ∧ s.engine.state.stopped = false) →
      frameWith r effect [] s = acceptedFrame (snapshot s r) s t)
    ∧ ∀ p d a l w, heldWrite s p d a l w →
      frameWith r effect [] s = acceptedFrame (snapshot s r) s (examinedWrite t d a l w (quietEnd p.ended)) := by
  have hagain : noneAgain t := by
    obtain ⟨v, m, rfl⟩ := ht
    exact hn
  constructor
  · intro hw
    have hsame : examine false t = t := by
      obtain hw | ⟨⟨p, d, tag, hc⟩, hgo⟩ := hw
      · obtain ⟨v, m, rfl⟩ := ht
        exact examine_of_noneWaiting false hw
      · exact examine_heldCommit hc hgo ht
    exact frameWith_accepted_of_noneAgain hf (hsame ▸ he) hagain
  · intro p d a l w hw
    refine frameWith_accepted_of_noneAgain hf (examine_heldWrite hw ht hs ▸ he) ?_
    exact (host_again_examinedWrite t d a l w _).trans hagain

end Thresholds

/-- Settles O16: the flow test under the new thresholds leaves the store sound, and the examination follows it. -/
theorem thresholdWrites : Obligations.ThresholdWrites := by
  intro data s hf
  refine ⟨fun hr => ?_, fun hr => ?_, fun hs hn hle hlt t ht => ?_, fun hs hn hle hlt t ht => ?_⟩
  · exact congrArg _ (frameWith_refused hf (stalllvlWrite_range hr))
  · exact congrArg _ (frameWith_refused hf (resumelvlWrite_range hr))
  · replace ht : t = stallRetested s data := ht
    subst ht
    have hchange : ∃ v m, stallRetested s data = { s with store := v, mgmt := m } := by
      unfold stallRetested
      split <;> exact ⟨_, _, rfl⟩
    have hsound : storeSound (stallRetested s data) := by
      rw [← flowRetest_stalllvl data hs, storeSound_iff]
      exact SoundStore.flowRetest ((storeSound_iff s).mp hs).capacity hlt
    obtain ⟨hsame, hexam⟩ :=
      frameWith_thresholdWrite (r := .stalllvl) hf hn (stalllvlWrite_ok hs hle hlt) hchange hsound
    exact ⟨fun hw => congrArg _ (hsame hw), fun p d a l w hw _ => congrArg _ (hexam p d a l w hw)⟩
  · replace ht : t = resumeRetested s data := ht
    subst ht
    have hsound : storeSound (resumeRetested s data) := by
      rw [← flowRetest_resumelvl data hs, storeSound_iff]
      exact SoundStore.flowRetest ((storeSound_iff s).mp hs).capacity hlt
    obtain ⟨hsame, hexam⟩ :=
      frameWith_thresholdWrite (r := .resumelvl) hf hn (resumelvlWrite_ok hs hle hlt) ⟨_, _, rfl⟩ hsound
    exact ⟨fun hw => congrArg _ (hsame hw), fun p d a l w hw _ => congrArg _ (hexam p d a l w hw)⟩

end Sys2Proof.Machine
end

section
/-! PROOFS. What an event and a register write do never depends on the strobes of the access in progress, nor on levels
asserted again (R65): each commutes with `seenAs`. So the levels stand as they were, and an access whose strobes ended early
goes on so, or has returned the Host Port to IDLE. -/

namespace Sys2Proof.Machine

/-! ### Indifference to the strobes -/

/-- An operation that never looks at the strobes of the access in progress, nor at levels asserted again (R65). -/
def indifferent (f : State → State) : Prop :=
  ∀ (early : Bool) (again : Option HostBus) (s : State), f (seenAs early again s) = seenAs early again (f s)

theorem seenAs_self (s : State) : seenAs false s.host.again s = s := rfl

theorem seenAs_of_noneAgain {s : State} (h : noneAgain s) : seenAs false none s = s := by
  have h : s.host.again = none := h
  rw [← h, seenAs_self]

/-- Strobes that have ended early already end no more. -/
theorem seenAs_of_ended {s : State} {p : Progress} (hp : s.host.port = .inProgress p) (he : p.ended = true) :
    seenAs true s.host.again s = s := by
  have hport : portEndedEarly s.host.port = s.host.port := by
    rw [hp, portEndedEarly, ← he]
  have hs : endedEarly s = s := by rw [endedEarly, hport]
  rw [seenAs_early, hs]
  rfl

namespace indifferent

variable {f g : State → State} {s : State}

theorem comp (hf : indifferent f) (hg : indifferent g) : indifferent fun s => f (g s) := fun e x s =>
  (congrArg f (hg e x s)).trans (hf e x (g s))

/-- The levels asserted again stand as they were. -/
theorem again (hf : indifferent f) (s : State) : (f s).host.again = s.host.again := by
  have h := hf false s.host.again s
  rw [seenAs_self] at h
  rw [h]
  rfl

theorem noneAgain (hf : indifferent f) (h : noneAgain s) : noneAgain (f s) := (hf.again s).trans h

/-- An access whose strobes ended early goes on so, or its completion has left the Host Port in IDLE. -/
theorem ended (hf : indifferent f) {p : Progress} (hp : s.host.port = .inProgress p) (he : p.ended = true) :
    (∃ q, (f s).host.port = .inProgress q ∧ q.ended = true) ∨ (f s).host.port = .idle := by
  have h := hf true s.host.again s
  rw [seenAs_of_ended hp he] at h
  rw [h, seenAs_host, if_pos rfl]
  cases (f s).host.port with
  | inProgress q => exact .inl ⟨_, rfl, rfl⟩
  | _ => exact .inr rfl

end indifferent

/-! ### Expiries and ticks -/

theorem indifferent_expire (e : Expiry) : indifferent fun s => expire s e := by
  intro early again s
  cases e with
  | hold => exact holdExpiry_seenAs early again s
  | array left => exact accessTimeout_seenAs early again s left
  | age d => exact ageExpiry_seenAs early again s d

theorem indifferent_accessComplete (ad : Option Word) : indifferent (accessComplete ad) :=
  fun early again s => accessComplete_seenAs early again s ad

theorem indifferent_tickHold : indifferent tickHold := by
  intro early again s
  unfold tickHold
  cases hp : s.host.port <;> cases early <;> simp only [seenAs_host, hp, portEndedEarly, Bool.false_eq_true, if_false,
    if_true]
  all_goals split <;> rename_i hl
  all_goals rfl

theorem indifferent_tickArray : indifferent tickArray := by
  intro early again s
  unfold tickArray
  rw [seenAs_port]
  split <;> cases early <;> rfl

theorem indifferent_tickCounts : indifferent tickCounts := by
  intro early again s
  have h : tickArray (tickHold (seenAs early again s)) = seenAs early again (tickArray (tickHold s)) :=
    indifferent_tickArray.comp indifferent_tickHold early again s
  unfold tickCounts
  rw [h]
  cases early <;> rfl

theorem indifferent_samplePwarn (low : Bool) : indifferent (samplePwarn low) := by
  intro early again s
  have h : ∀ p : Power, { seenAs early again s with power := p } = seenAs early again { s with power := p } :=
    withPower_seenAs early again s
  unfold samplePwarn
  simp only [seenAs_power, h, powerEntry_seenAs, powerReturn_seenAs, apply_ite_seenAs]

/-! ### Register writes -/

/-- The answer of a management write, under other levels on the host bus. -/
def seenAnswer (early : Bool) (again : Option HostBus) (r : Status × State) : Status × State :=
  (r.1, seenAs early again r.2)

theorem seenAnswer_ite (early : Bool) (again : Option HostBus) (c : Prop) [Decidable c] (a b : Status × State) :
    seenAnswer early again (if c then a else b) = if c then seenAnswer early again a else seenAnswer early again b := by
  split <;> rfl

section RegisterWrites

variable (early : Bool) (again : Option HostBus) (s : State)

theorem windowWrite_seenAs (i : Fin 16) (w : Window) :
    windowWrite i w (seenAs early again s) = seenAnswer early again (windowWrite i w s) := by
  unfold windowWrite
  simp only [seenAnswer_ite]
  cases early <;> rfl

theorem winbaseWrite_seenAs (i : Fin 16) (data : Word) :
    winbaseWrite i data (seenAs early again s) = seenAnswer early again (winbaseWrite i data s) := by
  unfold winbaseWrite
  split
  · rfl
  · rw [seenAs_cl, windowWrite_seenAs]

theorem hactWrite_seenAs (data : Word) :
    hactWrite data (seenAs early again s) = seenAnswer early again (hactWrite data s) := by
  unfold hactWrite
  split
  · rfl
  · rw [seenAnswer_ite]
    cases early <;> rfl

theorem defactWrite_seenAs (data : Word) :
    defactWrite data (seenAs early again s) = seenAnswer early again (defactWrite data s) := by
  unfold defactWrite
  split
  · rfl
  · rw [seenAnswer_ite]
    cases early <;> rfl

theorem dctlWrite_seenAs (d : Dom) (data : Word) :
    dctlWrite d data (seenAs early again s) = seenAnswer early again (dctlWrite d data s) := by
  unfold dctlWrite
  split
  · rfl
  · simp only [seenAnswer_ite]
    cases early <;> rfl

theorem examine_flowRetest_seenAs (v : Store) :
    examine false (flowRetest { seenAs early again s with store := v })
      = seenAs early again (examine false (flowRetest { s with store := v })) := by
  rw [withStore_seenAs, flowRetest_seenAs, examine_seenAs]

theorem stalllvlWrite_seenAs (data : Word) :
    stalllvlWrite data (seenAs early again s) = seenAnswer early again (stalllvlWrite data s) := by
  unfold stalllvlWrite
  rw [examine_flowRetest_seenAs, seenAs_store, seenAnswer_ite]
  rfl

theorem resumelvlWrite_seenAs (data : Word) :
    resumelvlWrite data (seenAs early again s) = seenAnswer early again (resumelvlWrite data s) := by
  unfold resumelvlWrite
  rw [examine_flowRetest_seenAs, seenAs_store, seenAnswer_ite]
  rfl

theorem ecmdWrite_seenAs (code : Word) :
    ecmdWrite code (seenAs early again s) = seenAnswer early again (ecmdWrite code s) := by
  unfold ecmdWrite
  split
  · cases early <;> rfl
  · unfold holdOffCmd
    rw [seenAs_engine, withEngine_seenAs, beginAndExamine_seenAs, seenAnswer_ite]
    rfl
  · unfold retryCmd
    rw [seenAs_engine]
    split
    · rw [enter_seenAs]; rfl
    · rfl
  · unfold abandonHeadCmd
    rw [seenAs_engine]
    split
    · rw [abandonHead_seenAs]; rfl
    · rfl
  · unfold stageClearCmd
    rw [seenAs_engine, stageClear_seenAs]
    split <;> rfl
  · unfold recoverRetryCmd
    rw [seenAs_engine, startRecovery_seenAs]
    split
    · rw [seenAnswer_ite]; rfl
    · rfl
  · unfold journalDiscardCmd
    rw [seenAs_engine]
    split
    · rw [goOn_seenAs, seenAnswer_ite]; rfl
    · rfl
  · rfl

/-- No register write looks at the strobes of the access in progress. -/
theorem writeReg_seenAs (r : Reg) (data : Word) :
    writeReg r data (seenAs early again s) = seenAnswer early again (writeReg r data s) := by
  cases r with
  | ecmd => exact ecmdWrite_seenAs early again s data
  | stalllvl => exact stalllvlWrite_seenAs early again s data
  | resumelvl => exact resumelvlWrite_seenAs early again s data
  | winbase i => exact winbaseWrite_seenAs early again s i data
  | winlim i =>
    rw [writeReg, winlimWrite, seenAs_cl, windowWrite_seenAs]
    rfl
  | hact => exact hactWrite_seenAs early again s data
  | defact => exact defactWrite_seenAs early again s data
  | dctl d => exact dctlWrite_seenAs early again s d data
  | holdlim | arrto | starve | agechain | jaddr | hset | ceil | cchi | agerld =>
    simp only [writeReg, holdlimWrite, arrtoWrite, starveWrite, agechainWrite, jaddrWrite, hsetWrite, ceilWrite,
      cchiWrite, agerldWrite, seenAnswer_ite]
    cases early <;> rfl
  | _ => cases early <;> rfl

end RegisterWrites

end Sys2Proof.Machine
end

section
/-! PROOFS. Every command but an arrival, the end of the strobes and a reset is an indifferent effect with the return to IDLE
after it; the Host Port's own events. -/

namespace Sys2Proof.Machine

/-! ### What a frame returns -/

section Words

variable (early : Bool) (again : Option HostBus) (s : State)

theorem indexWord_seenAs (index : BitVec 7) : indexWord index (seenAs early again s) = indexWord index s := by
  simp only [indexWord, snapshot_seenAs]

theorem wideView_seenAs (r : Reg) : wideView (seenAs early again s) r = wideView s r := by
  cases early <;> cases r <;> rfl

theorem indexView_seenAs (index : BitVec 7) : indexView index (seenAs early again s) = indexView index s := by
  unfold indexView
  cases regAt index with
  | none => rfl
  | some r => exact wideView_seenAs early again s r

theorem indexEffect_seenAs (index : BitVec 7) (data : Word) :
    indexEffect index data (seenAs early again s) = seenAnswer early again (indexEffect index data s) := by
  unfold indexEffect
  split
  · exact writeReg_seenAs early again s _ data
  · rfl

theorem optionsEffect_seenAs (d : Dom) (data : Word) :
    optionsEffect d data (seenAs early again s) = seenAnswer early again (optionsEffect d data s) := by
  rw [optionsEffect, seenAs_domains]
  exact dctlWrite_seenAs early again s d _

end Words

/-- The frame that is cut after `n` clocks, as it has been shifted. -/
def cutShift (frame : BitVec 24) (n : Nat) (s : State) : Shift :=
  (if n < 8 then Shift.begun s else Shift.snapped frame s).clocked frame n

/-- A frame that is cut leaves what MSO has carried; an MSS# held since a reset ends (R170, R173, R184). -/
theorem state_cutFrame (frame : BitVec 24) {n : Nat} (hn : n < 24) (s : State) :
    ((Line.ofState s).cutFrame frame n).state
      = if s.mgmt.mssHeld then releaseMss s
        else { s with mgmt := { s.mgmt with mso := (cutShift frame n s).out } } := by
  unfold Line.cutFrame
  cases hs : s.mgmt.mssHeld with
  | true =>
    rw [assertMss_of_held (by simp [framesSeen, hs]), clocks_of_not_selected frame 0 n (fun f hf => by cases hf)]
    rfl
  | false =>
    have hclocks : Line.clocks frame 0 n (Line.ofState s).assertMss = ⟨s, .selected (cutShift frame n s)⟩ := by
      unfold cutShift
      split
      · next h8 =>
        rw [assertMss_of_framesSeen frame hs, clocks_shift frame s _ 0 n (.inl (by omega)), Nat.zero_add]
      · next h8 =>
        obtain ⟨k, rfl⟩ := Nat.exists_eq_add_of_le (Nat.le_of_not_lt h8)
        rw [clocks_append, clocks_byte0 frame hs, clocks_shift frame s _ _ _ (.inr (by omega))]
    rw [hclocks, Line.deassertMss]
    exact if_pos hn

theorem cutShift_seenAs (early : Bool) (again : Option HostBus) (frame : BitVec 24) (n : Nat) (s : State) :
    cutShift frame n (seenAs early again s) = cutShift frame n s := by
  simp only [cutShift, Shift.begun, Shift.snapped, seenAs_mgmt, indexWord_seenAs, indexView_seenAs]

theorem withMgmt_seenAs (early : Bool) (again : Option HostBus) (m : Mgmt) (s : State) :
    { seenAs early again s with mgmt := m } = seenAs early again { s with mgmt := m } := by
  cases early <;> rfl

/-! ### A command as an indifferent effect -/

/-- The command is an indifferent effect with the return to IDLE after it, wherever an access is in progress (R65). -/
def settlesEffect (c : Instr) : Prop :=
  ∃ f, indifferent f ∧ ∀ s p, s.host.port = .inProgress p → exec c s = .next (settle s (f s))

/-- The return to IDLE looks at the state before a step for its access alone. -/
theorem settle_of_inProgress {before before' : State} {p q : Progress} (s : State)
    (h : before.host.port = .inProgress p) (h' : before'.host.port = .inProgress q) :
    settle before s = settle before' s := by
  cases hs : s.host.port <;> cases ha : s.host.again <;> simp only [settle, h, h', hs, ha]

theorem inProgress_tickCounts {s : State} {p : Progress} (h : s.host.port = .inProgress p) :
    ∃ q, (tickCounts s).host.port = .inProgress q := by
  unfold tickCounts
  dsimp only
  rw [host_tickArray]
  unfold tickHold
  rw [h]
  dsimp only
  split
  · exact ⟨_, rfl⟩
  · exact ⟨p, h⟩

theorem settlesEffect_tick (low : Bool) : settlesEffect (.tick low []) := by
  refine ⟨fun s => samplePwarn low (tickCounts s), (indifferent_samplePwarn low).comp indifferent_tickCounts,
    fun s p hp => ?_⟩
  obtain ⟨q, hq⟩ := inProgress_tickCounts hp
  exact congrArg Host.Outcome.next (settle_of_inProgress _ hq hp)

/-- A command that leaves the Host Port as it was. -/
theorem settlesEffect_of_same_port {c : Instr} {f : State → State} (hf : indifferent f)
    (hport : ∀ s p, s.host.port = .inProgress p → (f s).host.port = s.host.port)
    (hc : ∀ s, exec c s = .next (f s)) : settlesEffect c :=
  ⟨f, hf, fun s p hp => (hc s).trans (congrArg Host.Outcome.next (settle_of_same_port (hport s p hp)).symm)⟩

theorem settlesEffect_returnIdle : settlesEffect .hostPortReturnIdle :=
  ⟨id, fun _ _ _ => rfl, fun s p hp => congrArg Host.Outcome.next (by
    rw [seeReturnIdle, hp]
    exact (settle_of_same_port (s := s) rfl).symm)⟩

theorem settlesEffect_incompleteFrame (frame : BitVec 24) (n : Fin 24) : settlesEffect (.incompleteFrame frame n) := by
  refine settlesEffect_of_same_port (f := fun s => ((Line.ofState s).cutFrame frame n.val).state)
    (fun early again s => ?_) (fun s p _ => ?_) fun s => rfl
  · dsimp only
    rw [state_cutFrame frame n.isLt, state_cutFrame frame n.isLt, seenAs_mgmt, cutShift_seenAs, withMgmt_seenAs,
      ← apply_ite_seenAs, releaseMss, seenAs_mgmt, withMgmt_seenAs]
    rfl
  · rw [state_cutFrame frame n.isLt]
    split <;> rfl

theorem settlesEffect_viewRead (index : BitVec 7) : settlesEffect (.viewRead index) := by
  refine settlesEffect_of_same_port (f := indexReadFrame index []) (fun early again s => ?_) (fun s p _ => ?_)
    fun s => rfl
  · unfold indexReadFrame actRead carried
    simp only [afterInside_nil, releaseMss, seenAs_mgmt, withMgmt_seenAs, indexWord_seenAs, indexView_seenAs,
      apply_ite_seenAs]
  · unfold indexReadFrame
    dsimp only
    split <;> rfl

/-- A write frame with no events inside it. -/
theorem settlesEffect_frame {c : Instr} {word : State → Word} {effect : State → Status × State}
    (hc : ∀ s, exec c s = .next (frameReturning word effect [] s))
    (hword : ∀ early again s, word (seenAs early again s) = word s)
    (heffect : ∀ early again s, effect (seenAs early again s) = seenAnswer early again (effect s)) :
    settlesEffect c := by
  refine ⟨fun s => if s.mgmt.mssHeld then releaseMss s else endWriteFrame (carried s (word s)) (effect s),
    fun early again s => ?_, fun s p _ => (hc s).trans (congrArg Host.Outcome.next ?_)⟩
  · dsimp only
    rw [heffect, hword]
    simp only [carried, endWriteFrame, seenAnswer, releaseMss, seenAs_mgmt, withMgmt_seenAs, apply_ite_seenAs]
  · unfold frameReturning
    dsimp only
    split
    · exact (settle_of_same_port rfl).symm
    · rfl

theorem settlesEffect_writeReg {c : Instr} (r : Reg) (data : Word)
    (hc : ∀ s, exec c s = .next (frameWith r (writeReg r data) [] s)) : settlesEffect c :=
  settlesEffect_frame hc (fun early again s => snapshot_seenAs early again s r)
    fun early again s => writeReg_seenAs early again s r data

/-- Every command with no event inside it but an arrival, the end of the strobes and a reset, which look at the access in
progress themselves. -/
theorem settlesEffect_of_instr {c : Instr} (inside : c.inside = []) (tick : ∀ low early, c = .tick low early → early = [])
    (arrival : ∀ bus, c ≠ .hostAccessArrival bus) (strobes : c ≠ .hostStrobesEndEarly)
    (reset : ∀ st left held, c ≠ .reset st left held) : settlesEffect c := by
  cases c with
  | hostAccessArrival bus => exact absurd rfl (arrival bus)
  | hostStrobesEndEarly => exact absurd rfl strobes
  | reset st left held => exact absurd rfl (reset st left held)
  | tick low early => cases tick low early rfl; exact settlesEffect_tick low
  | hostPortReturnIdle => exact settlesEffect_returnIdle
  | holdLimitExpiry => exact ⟨_, indifferent_expire .hold, fun _ _ _ => rfl⟩
  | arrayAccessComplete ad => exact ⟨_, indifferent_accessComplete ad, fun _ _ _ => rfl⟩
  | arrayTimeout left => exact ⟨_, indifferent_expire (.array left), fun _ _ _ => rfl⟩
  | ageExpiry d => exact ⟨_, indifferent_expire (.age d), fun _ _ _ => rfl⟩
  | incompleteFrame frame clocks => exact settlesEffect_incompleteFrame frame clocks
  | viewRead index => cases inside; exact settlesEffect_viewRead index
  | registerWrite index data =>
    cases inside
    exact settlesEffect_frame (fun _ => rfl) (fun early again s => indexWord_seenAs early again s index)
      fun early again s => indexEffect_seenAs early again s index data
  | dctlOptionsWrite d data =>
    cases inside
    exact settlesEffect_frame (fun _ => rfl) (fun early again s => snapshot_seenAs early again s (.dctl d))
      fun early again s => optionsEffect_seenAs early again s d data
  | holdOn => cases inside; exact settlesEffect_writeReg .ecmd 1#16 fun _ => rfl
  | holdOff => cases inside; exact settlesEffect_writeReg .ecmd 2#16 fun _ => rfl
  | retry => cases inside; exact settlesEffect_writeReg .ecmd 3#16 fun _ => rfl
  | abandonHead => cases inside; exact settlesEffect_writeReg .ecmd 4#16 fun _ => rfl
  | stageClear => cases inside; exact settlesEffect_writeReg .ecmd 5#16 fun _ => rfl
  | recoverRetry => cases inside; exact settlesEffect_writeReg .ecmd 6#16 fun _ => rfl
  | journalDiscard => cases inside; exact settlesEffect_writeReg .ecmd 7#16 fun _ => rfl
  | unnamedEcmdCode code => cases inside; exact settlesEffect_writeReg .ecmd code fun _ => rfl
  | winbaseWrite i data => cases inside; exact settlesEffect_writeReg (.winbase i) data fun _ => rfl
  | winlimWrite i data => cases inside; exact settlesEffect_writeReg (.winlim i) data fun _ => rfl
  | hsetWrite k data => cases inside; exact settlesEffect_writeReg (.hset k) data fun _ => rfl
  | hactWrite data => cases inside; exact settlesEffect_writeReg .hact data fun _ => rfl
  | defactWrite data => cases inside; exact settlesEffect_writeReg .defact data fun _ => rfl
  | ccloWrite d data => cases inside; exact settlesEffect_writeReg (.cclo d) data fun _ => rfl
  | cchiWrite d data => cases inside; exact settlesEffect_writeReg (.cchi d) data fun _ => rfl
  | domainEnable d data => cases inside; exact settlesEffect_writeReg (.dctl d) (dctlData true data) fun _ => rfl
  | domainDisable d data => cases inside; exact settlesEffect_writeReg (.dctl d) (dctlData false data) fun _ => rfl
  | ceilWrite d data => cases inside; exact settlesEffect_writeReg (.ceil d) data fun _ => rfl
  | abortvalWrite data => cases inside; exact settlesEffect_writeReg .abortval data fun _ => rfl
  | stalllvlWrite data => cases inside; exact settlesEffect_writeReg .stalllvl data fun _ => rfl
  | resumelvlWrite data => cases inside; exact settlesEffect_writeReg .resumelvl data fun _ => rfl
  | holdlimWrite data => cases inside; exact settlesEffect_writeReg .holdlim data fun _ => rfl
  | arrtoWrite data => cases inside; exact settlesEffect_writeReg .arrto data fun _ => rfl
  | starveWrite data => cases inside; exact settlesEffect_writeReg .starve data fun _ => rfl
  | tickdivWrite data => cases inside; exact settlesEffect_writeReg .tickdiv data fun _ => rfl
  | agerldWrite d data => cases inside; exact settlesEffect_writeReg (.agerld d) data fun _ => rfl
  | agechainWrite data => cases inside; exact settlesEffect_writeReg .agechain data fun _ => rfl
  | jaddrloWrite data => cases inside; exact settlesEffect_writeReg .jaddrlo data fun _ => rfl
  | jaddrWrite data => cases inside; exact settlesEffect_writeReg .jaddr data fun _ => rfl
  | flagsWrite data => cases inside; exact settlesEffect_writeReg .flags data fun _ => rfl
  | enablesWrite data => cases inside; exact settlesEffect_writeReg .enables data fun _ => rfl
  | counterClear k data => cases inside; exact settlesEffect_writeReg (.counter k) data fun _ => rfl

/-! ### The Host Port's own events -/

section HostEvents

variable {s : State}

theorem seeReturnIdle_ended (h : (∃ w, s.host.port = .driving w) ∨ s.host.port = .ending) :
    seeReturnIdle s = setHost .idle s := by
  obtain ⟨w, h⟩ | h := h <;> simp only [seeReturnIdle, h]

theorem seeReturnIdle_kept (h : s.host.port = .idle ∨ ∃ p, s.host.port = .inProgress p) : seeReturnIdle s = s := by
  obtain h | ⟨p, h⟩ := h <;> simp only [seeReturnIdle, h]

theorem seeStrobesEnd_kept (h : ∀ p, s.host.port ≠ .inProgress p) : seeStrobesEnd s = s := by
  unfold seeStrobesEnd
  split
  · next p hp => exact absurd hp (h p)
  all_goals rfl

theorem seeStrobesEnd_inProgress {p : Progress} (h : s.host.port = .inProgress p) :
    seeStrobesEnd s = withAgain none (endedEarly s) := by
  simp only [seeStrobesEnd, withAgain, endedEarly, portEndedEarly, h]

/-- A strobe is asserted exactly where something is captured (R62). -/
theorem capture_isSome (hpar : Bool) {bus : HostBus} (h : bus.hwe = true ∨ bus.hoe = true) :
    ∃ a, capture hpar bus = some a := by
  cases hwe : bus.hwe <;> cases hoe : bus.hoe <;> simp_all [capture]

/-- Signals asserted again under an access whose strobes ended early stand for the return to IDLE (R65). -/
theorem seeArrival_again {p : Progress} {bus : HostBus} (hp : s.host.port = .inProgress p) (he : p.ended = true)
    (hb : bus.hwe = true ∨ bus.hoe = true) : seeArrival bus s = withAgain (some bus) s := by
  obtain ⟨a, ha⟩ := capture_isSome s.straps.hpar hb
  simp only [seeArrival, hp, ha, he, if_true, withAgain]

theorem seeArrival_idle {bus : HostBus} {a : Access} (h : s.host.port = .idle) (hc : capture s.straps.hpar bus = some a) :
    seeArrival bus s = arrive a s := by
  simp only [seeArrival, h, hc]

theorem seeArrival_noStrobe {bus : HostBus} (h : capture s.straps.hpar bus = none) : seeArrival bus s = s := by
  unfold seeArrival
  rw [h]
  split
  · next hc => exact nomatch hc
  · next hc => exact nomatch hc
  · rfl

/-- The return to IDLE under levels asserted again is the arrival of these levels (R65). -/
theorem settle_returned {before : State} {p : Progress} {bus : HostBus} (hbefore : before.host.port = .inProgress p)
    (hidle : s.host.port = .idle) (ha : s.host.again = some bus) :
    settle before s = seeArrival bus (withAgain none s) := by
  have hport : (withAgain none s).host.port = .idle := hidle
  unfold settle
  split
  · next hbus =>
    cases ha.symm.trans hbus
    dsimp only
    split
    · next a hc => exact (seeArrival_idle (s := withAgain none s) hport hc).symm
    · next hc => exact (seeArrival_noStrobe (s := withAgain none s) hc).symm
  · next hne => exact absurd ha (hne p bus hbefore hidle)

/-- Where the Host Port is not in IDLE the levels asserted again go on standing. -/
theorem settle_of_not_idle (before : State) (h : s.host.port ≠ .idle) : settle before s = s := by
  unfold settle
  split
  · next hidle _ => exact absurd hidle h
  · rfl

end HostEvents

/-! ### The driven word -/

/-- A lane and its parity bit hold an odd number of ones (chapter 4, Parity). -/
theorem ones_oddParity (b : Byte) :
    (((List.range 8).filter (fun i => b.getLsbD i)).length + b.oddParity.toNat) % 2 = 1 := by
  simp only [List.range, List.range.loop, List.filter, Byte.oddParity]
  generalize b.getLsbD 0 = b0, b.getLsbD 1 = b1, b.getLsbD 2 = b2, b.getLsbD 3 = b3, b.getLsbD 4 = b4,
    b.getLsbD 5 = b5, b.getLsbD 6 = b6, b.getLsbD 7 = b7
  revert b0 b1 b2 b3 b4 b5 b6 b7
  decide

/-- The two parity bits that are driven with a word (R69). -/
theorem parityBits (hi lo : Bool) :
    (BitVec.ofBool hi ++ BitVec.ofBool lo : BitVec 2).getLsbD 0 = lo
      ∧ (BitVec.ofBool hi ++ BitVec.ofBool lo : BitVec 2).getLsbD 1 = hi := by
  cases hi <;> cases lo <;> exact ⟨rfl, rfl⟩

section Driven

variable {s : State}

theorem hostDriven_driving {w : Word} (h : s.host.port = .driving w) :
    s.hostDriven = some (w, if s.straps.hpar then
      BitVec.ofBool w.lane1.oddParity ++ BitVec.ofBool w.lane0.oddParity else 0#2) := by
  simp only [State.hostDriven, h]

theorem hostDriven_eq_none (h : ∀ w, s.host.port ≠ .driving w) : s.hostDriven = none := by
  unfold State.hostDriven
  split
  · next w hw => exact absurd hw (h w)
  · rfl

theorem hwaitAsserted_iff (s : State) : s.hwaitAsserted = true ↔ ∃ p, s.host.port = .inProgress p := by
  unfold State.hwaitAsserted
  cases s.host.port <;> simp

end Driven

/-- Settles O34: what decides an access does not look at its strobes, so an access whose strobes ended early goes on by the
same rules, and its return to IDLE is where the levels asserted again arrive. -/
theorem hostPortEndsAndDrivenWord : Obligations.HostPortEndsAndDrivenWord := by
  refine ⟨fun s w p bus => ⟨fun h => ?_, fun h => ?_, fun hp => ⟨?_, ?_, fun he hb => ?_⟩⟩,
    fun c s u p hp inside tick arrival strobes reset hn hu => ?_, ones_oddParity, fun s w =>
      ⟨fun h => ⟨fun hpar => ?_, fun hpar => ?_⟩, hostDriven_eq_none, hwaitAsserted_iff s⟩⟩
  · have hbusy : ∀ q, s.host.port ≠ .inProgress q := fun q => by obtain h | h := h <;> rw [h] <;> nofun
    exact ⟨congrArg Host.Outcome.next (seeReturnIdle_ended (h.imp_left fun h => ⟨w, h⟩)),
      congrArg Host.Outcome.next (seeStrobesEnd_kept hbusy)⟩
  · exact ⟨congrArg Host.Outcome.next (seeReturnIdle_kept (.inl h)),
      congrArg Host.Outcome.next (seeStrobesEnd_kept fun q => by rw [h]; nofun)⟩
  · exact congrArg Host.Outcome.next (seeReturnIdle_kept (.inr ⟨p, hp⟩))
  · exact congrArg Host.Outcome.next (seeStrobesEnd_inProgress hp)
  · exact congrArg Host.Outcome.next (seeArrival_again hp he hb)
  · obtain ⟨f, hf, hc⟩ := settlesEffect_of_instr inside tick arrival strobes reset
    have hfn : noneAgain (f s) := hf.noneAgain hn
    have hfs : u = f s := by
      have h := (hc s p hp).symm.trans hu
      rw [settle_of_noneAgain s hfn] at h
      exact (Host.Outcome.next.inj h).symm
    subst hfs
    refine ⟨?_, fun bus he => ⟨fun hidle => ?_, fun hbusy => ?_⟩⟩
    · have hearly : ∀ t, noneAgain t → seenAs true none t = endedEarly t := fun t ht => by
        rw [seenAs_early, withAgain, ← show (endedEarly t).host.again = none from ht]
      have hport : (endedEarly s).host.port = .inProgress { p with ended := true } := by
        rw [endedEarly, hp]
        rfl
      have hcomm : f (endedEarly s) = endedEarly (f s) := by
        rw [← hearly s hn, hf, hearly (f s) hfn]
      have hfe : noneAgain (endedEarly (f s)) := hfn
      rw [hc _ _ hport, hcomm, settle_of_noneAgain _ hfe]
    · have hcomm : f (withAgain (some bus) s) = withAgain (some bus) (f s) := hf false (some bus) s
      rw [hc (withAgain (some bus) s) p hp, hcomm]
      have hnone : withAgain none (f s) = f s := seenAs_of_noneAgain hfn
      have h := settle_returned (s := withAgain (some bus) (f s)) hp hidle rfl
      rw [show withAgain none (withAgain (some bus) (f s)) = withAgain none (f s) from rfl, hnone] at h
      exact congrArg Host.Outcome.next h
    · have hcomm : f (withAgain (some bus) s) = withAgain (some bus) (f s) := hf false (some bus) s
      rw [hc (withAgain (some bus) s) p hp, hcomm]
      exact congrArg Host.Outcome.next (settle_of_not_idle _ hbusy)
  · obtain ⟨h0, h1⟩ := parityBits w.lane1.oddParity w.lane0.oddParity
    refine ⟨_, ?_, h0, h1⟩
    rw [hostDriven_driving h, if_pos hpar]
  · rw [hostDriven_driving h, hpar]
    rfl

end Sys2Proof.Machine
end

section
/-! PROOFS. Accesses that the Host Port ends or keeps by itself, writes of bad parity and of one lane, and the expiry of the
hold limit. -/

namespace Sys2Proof.Machine

section Arrivals

variable {s : State}

/-! ### Arrivals that no class decides -/

theorem capture_malformed (hpar : Bool) {bus : HostBus} (hwe : bus.hwe = true) (hoe : bus.hoe = true) :
    capture hpar bus = some .malformed := by
  simp [capture, hwe, hoe]

theorem capture_write {bus : HostBus} (hwe : bus.hwe = true) (hoe : bus.hoe = false) :
    capture s.straps.hpar bus = some (capturedWrite s bus) := by
  simp [capture, hwe, hoe, capturedWrite]

theorem capture_read (hpar : Bool) {bus : HostBus} (hwe : bus.hwe = false) (hoe : bus.hoe = true) :
    capture hpar bus = some (.read bus.ha) := by
  simp [capture, hwe, hoe]

/-- An arrival at an idle Host Port that decides it at once (R62, R63). -/
theorem seeArrival_ready {bus : HostBus} {a : Access} (hr : ready s) (hc : capture s.straps.hpar bus = some a) :
    seeArrival bus s = presentAccess a (setHost (heldNow a .deciding) s) := by
  obtain ⟨hidle, hrec⟩ := hr
  simp only [seeArrival, hidle, hc, arrive, hrec, Bool.false_eq_true, if_false, heldNow]

/-- An arrival while the engine is RECOVERING is captured and held (R74). -/
theorem seeArrival_recovering {bus : HostBus} {a : Access} (hidle : s.host.port = .idle)
    (hrec : s.engine.state.isRecovering = true) (hc : capture s.straps.hpar bus = some a) :
    seeArrival bus s = setHost (heldNow a .recovery) s := by
  simp only [seeArrival, hidle, hc, arrive, hrec, if_true, heldNow]

/-- A malformed access and a zero-lane write complete with no effect (R62, R66). -/
theorem presentAccess_noEffect {a : Access} (k : Hold)
    (h : a = .malformed ∨ ∃ addr l w hdp, a = .write addr l w hdp ∧ l.isEmpty = true) :
    presentAccess a (setHost (heldNow a k) s) = setHost .ending s := by
  obtain rfl | ⟨addr, l, w, hdp, rfl, hl⟩ := h
  · rfl
  · rw [presentAccess, hl]
    rfl

/-- A read of the reserved or the outside area is answered at once (R9). -/
theorem classifiedRead_noArray {c : Class} (a : Addr) (k : Hold) (h : c = .reserved ∨ c = .outside) :
    classifiedRead c a (setHost (heldNow (.read a) k) s) = setHost (.driving 0#16) s := by
  obtain rfl | rfl := h <;> rfl

/-- Signals asserted where no access can arrive, and no strobes have ended early, change nothing (R62). -/
theorem seeArrival_ignored (bus : HostBus) (hbusy : s.host.port ≠ .idle)
    (hstrobes : ∀ p, s.host.port = .inProgress p → p.ended = false) : seeArrival bus s = s := by
  unfold seeArrival
  split
  · next hidle _ => exact absurd hidle hbusy
  · next p _ hp _ => rw [hstrobes p hp]; rfl
  · rfl

end Arrivals

/-- Settles O25: what is captured decides alone, before any class asks for the array. -/
theorem accessesThatNeedNoArray : Obligations.AccessesThatNeedNoArray := by
  constructor
  · intro s bus
    refine ⟨fun hr ⟨hwe, hb⟩ => ?_, fun hr ⟨hoe, hwe⟩ hc => ?_, fun hbusy hstrobes => ?_⟩ <;>
      refine congrArg Host.Outcome.next ?_
    · cases hoe : bus.hoe with
      | true =>
        rw [seeArrival_ready hr (capture_malformed _ hwe hoe), presentAccess_noEffect _ (.inl rfl)]
        rfl
      | false =>
        have hl : bus.hbe.isEmpty = true := hb.resolve_left (by simp [hoe])
        rw [seeArrival_ready hr (capture_write hwe hoe), presentAccess_noEffect]
        · rfl
        · exact .inr ⟨_, _, _, _, rfl, hl⟩
    · rw [seeArrival_ready hr (capture_read _ hwe hoe)]
      exact classifiedRead_noArray bus.ha .deciding hc
    · exact seeArrival_ignored bus hbusy hstrobes
  · intro s bus a hidle hrec ha
    refine congrArg Host.Outcome.next (seeArrival_recovering hidle hrec ?_)
    obtain ⟨hwe, hoe, rfl⟩ | ⟨hwe, hoe, rfl⟩ | ⟨hwe, hoe, rfl⟩ := ha
    · exact capture_malformed _ hwe hoe
    · exact capture_write hwe hoe
    · exact capture_read _ hwe hoe

section BadParity

variable {s : State}

/-! ### Writes of bad parity -/

/-- Bad parity on the bus is bad parity of what was captured (R68). -/
theorem badParity_of_not_parityGood {bus : HostBus} (h : ¬parityGood s bus) :
    badParity bus.hbe bus.hd (if s.straps.hpar then some bus.hdp else none) = true := by
  unfold parityGood laneParityGood at h
  cases hp : s.straps.hpar <;> cases hl0 : bus.hbe.lane0 <;> cases hl1 : bus.hbe.lane1 <;>
    simp_all [badParity]
  tauto

/-- The drop of a write of bad parity (R68, R70). -/
theorem dropParity_eq {p : Progress} (hp : s.host.port = .inProgress p) :
    dropParity s = { s with
      host := { s.host with port := quietEnd p.ended, dropcause := .parity }
      mgmt := s.mgmt.noted [.parity, .dropped] [.writesDropped] } :=
  dropWrite_eq (s := setFlag .parity s) .parity hp

/-- A break of a BROKEN domain is none, and releases nothing (R31, R33). -/
theorem breakDomain_broken {d : Dom} (c : BreakCause) (hd : (s.domains.get d).state = .broken) :
    breakDomain d c s = s := by
  have hcore : breakCore d c s = s := by
    unfold breakCore
    rw [hd]
  rw [breakDomain, hcore, flowAfterRelease]
  simp

/-- A write that reaches a controller: staged for an enabled domain, or to a commit cell (R9). -/
theorem seeArrival_controller {bus : HostBus} {d : Dom} (hw : writesTaken s) (hb : isWrite bus) (hbad : ¬parityGood s bus)
    (hc : classify s bus.ha = .stage d ∨ (classify s bus.ha = .commitCell d ∧ bus.hbe = Lanes.both))
    (hd : (s.domains.get d).enabled = true) :
    seeArrival bus s = dropParity (breakDomain d .parity (arrived s bus)) := by
  have hbad := badParity_of_not_parityGood hbad
  rw [seeArrival_eq_classified hw hb]
  obtain hc | ⟨hc, hl⟩ := hc <;> rw [hc, classifiedWrite]
  · rw [show classDropCause (arrived s bus) (.stage d) = none from
      classDropCause_eq_none (s := s) hw (.inl ⟨d, rfl, hd⟩)]
    dsimp only
    rw [hbad, stagedWrite, if_pos rfl]
  · rw [show classDropCause (arrived s bus) (.commitCell d) = none from
      classDropCause_eq_none (s := s) hw (.inr ⟨d, rfl⟩)]
    dsimp only
    rw [hbad, hl, commitCellWrite]
    rfl

/-- A pass-through write of bad parity makes no array access (R68, R140). -/
theorem seeArrival_passParity {bus : HostBus} (hw : writesTaken s) (hb : isWrite bus) (hbad : ¬parityGood s bus)
    (hc : classify s bus.ha = .pass) : seeArrival bus s = dropParity (arrived s bus) := by
  obtain ⟨_, hblocked, hlow⟩ := hw
  have hnone : classDropCause (arrived s bus) .pass = none := by
    rw [arrived, classDropCause, setHost_engine, setHost_power, hblocked, hlow]
    rfl
  rw [seeArrival_eq_classified ⟨‹_›, hblocked, hlow⟩ hb, hc, classifiedWrite, hnone]
  dsimp only
  rw [badParity_of_not_parityGood hbad, passWrite, if_pos rfl]

theorem isBoth_eq_false {l : Lanes} (h : l ≠ Lanes.both) : l.isBoth = false := by
  obtain ⟨l0, l1⟩ := l
  cases l0 <;> cases l1 <;> simp_all [Lanes.isBoth, Lanes.both]

/-- A commit-cell write of one lane is dropped, whatever its parity; it breaks an OPEN domain alone (R24). -/
theorem seeArrival_oneLane {bus : HostBus} {d : Dom} (hw : writesTaken s) (hb : isWrite bus)
    (hl : bus.hbe ≠ Lanes.both) (hc : classify s bus.ha = .commitCell d) :
    seeArrival bus s = dropWrite .format
      (if (s.domains.get d).state = .opened then breakDomain d .format (arrived s bus) else arrived s bus) := by
  have hlanes : bus.hbe.isBoth = false := isBoth_eq_false hl
  rw [seeArrival_eq_classified hw hb, hc, classifiedWrite,
    show classDropCause (arrived s bus) (.commitCell d) = none from classDropCause_eq_none (s := s) hw (.inr ⟨d, rfl⟩)]
  dsimp only
  rw [commitCellWrite, hlanes]
  rfl

end BadParity

/-- Settles O30: the lanes are looked at before the parity, and the parity before the domain (R22, R24). -/
theorem writesOfBadParityOrOneLane : Obligations.WritesOfBadParityOrOneLane := by
  constructor
  · intro s bus hw hb hbad
    refine ⟨fun hc => ?_, fun d hc => ⟨fun hd => ?_, fun hd hs _ => ?_⟩⟩ <;>
      refine congrArg Host.Outcome.next ?_
    · rw [seeArrival_passParity hw hb hbad hc]
      exact dropParity_eq (p := ⟨capturedWrite s bus, .deciding, 0, false, false⟩) rfl
    · rw [seeArrival_controller hw hb hbad hc ((Domain.enabled_iff _).mpr (by rw [hd]; nofun)),
        breakDomain_broken (s := arrived s bus) _ hd]
      exact dropParity_eq (p := ⟨capturedWrite s bus, .deciding, 0, false, false⟩) rfl
    · rw [seeArrival_controller hw hb hbad hc (enabled_of_takesWrites hd), breakDomain_eq (s := arrived s bus) _ hs hd]
      exact dropParity_eq (p := ⟨capturedWrite s bus, .deciding, 0, false, false⟩) rfl
  · intro s bus d hw hb hl hc
    refine ⟨fun hd => ?_, fun hd hs => ?_⟩ <;> refine congrArg Host.Outcome.next ?_
    · have hopen : (s.domains.get d).state ≠ .opened := by obtain hd | hd := hd <;> rw [hd] <;> nofun
      rw [seeArrival_oneLane hw hb hl hc, if_neg hopen]
      exact dropWrite_heldNow _ _ _ s
    · rw [seeArrival_oneLane hw hb hl hc, if_pos hd, breakDomain_eq (s := arrived s bus) _ hs (.inr hd)]
      exact dropWrite_eq (p := ⟨capturedWrite s bus, .deciding, 0, false, false⟩) .format rfl

section HoldLimit

variable {s : State} {p : Progress}

/-! ### The hold limit -/

/-- A drop after a break by the hold limit: HOLD is set beside BROKEN and DROPPED (R73). -/
theorem noted_hold (m : Mgmt) :
    m.noted [.broken, .hold, .dropped] [.groupsBroken, .writesDropped]
      = m.noted [.broken, .dropped, .hold] [.groupsBroken, .writesDropped] := by
  simp only [Mgmt.noted, List.foldl, BitVec.or_assoc, BitVec.or_comm (FlagId.bit .hold)]

/-- The expiry that is taken returns the Host Port to IDLE with no arrival, where no levels stand asserted again (R65). -/
theorem takeExpiry_hold (h : noneAgain s) : takeExpiry s .hold = holdExpiry s :=
  settle_of_noneAgain s ((indifferent_expire .hold).noneAgain h)

theorem holdExpiry_notDue (hp : s.host.port = .inProgress p) (hdue : p.due = false) : holdExpiry s = s := by
  simp [holdExpiry, hp, hdue]

theorem holdExpiry_waits (hp : s.host.port = .inProgress p) (hdue : p.due = true) (hk : ∀ d, p.hold ≠ .sync d) :
    holdExpiry s = examine true s := by
  simp only [holdExpiry, hp, hdue, if_true]

theorem holdExpiry_sync {d : Dom} (hp : s.host.port = .inProgress p) (hdue : p.due = true) (hk : p.hold = .sync d) :
    holdExpiry s = completeQuiet (setFlag .hold (clearSyncFlags s)) := by
  simp [holdExpiry, hp, hdue, hk]

/-- The examination of a staged write in THROTTLED as its hold limit expires (R53). -/
theorem examineWrite_expired {d : Dom} (a : Addr) (l : Lanes) (w : Word) (hp : s.host.port = .inProgress p)
    (hd : takesWrites s d) (hf : s.store.flow = .throttled) (hlow : s.power.low = false) (hs : storeSound s) :
    examineWrite true d a l w s = brokeAndDropped s d .hold [.hold] (quietEnd p.ended) := by
  have hflow : s.store.flow ≠ .flowing := by rw [hf]; nofun
  have hb := ne_broken_of_takesWrites hd
  simp only [examineWrite, hb, hlow, hflow, Bool.false_eq_true, if_false, if_true]
  rw [breakDomain_eq .hold hs hd]
  refine (dropWrite_eq (p := p) .broken ?_).trans ?_
  · exact hp
  exact congrArg (fun m : Mgmt => { brokeAndDropped s d .hold [] (quietEnd p.ended) with mgmt := m }) (noted_hold s.mgmt)

/-- The examination of a commit in a full queue as its hold limit expires (R28). -/
theorem examineCommit_expired {d : Dom} (tag : Word) (hp : s.host.port = .inProgress p) (hd : takesWrites s d)
    (hq : s.queue.length = 32) (hs : storeSound s) :
    examineCommit true d tag s = commitBrokeAndDropped s d .hold [.hold] (quietEnd p.ended) := by
  simp only [examineCommit, slotFree_eq_false hq, Bool.false_eq_true, if_false, if_true]
  rw [breakDomain_eq .hold hs hd, commitToBroken]
  refine (dropWrite_eq (p := p) .broken ?_).trans ?_
  · exact hp
  simp only [modDomain, setFlag, Four.get_set_same]
  exact congrArg (fun m : Mgmt => { commitBrokeAndDropped s d .hold [] (quietEnd p.ended) with mgmt := m })
    (noted_hold s.mgmt)

end HoldLimit

/-- Settles O35: an expiry that is due examines the access that waits, or ends the wait for sync (R73). -/
theorem holdLimitExpiries : Obligations.HoldLimitExpiries := by
  intro s p hp hn
  refine ⟨fun hdue => ?_, fun hdue d a l w hdp hk ha hd hf hlow hs _ => ?_, fun hdue d tag hk hd hq hs _ => ?_,
    fun hdue d hk => ?_⟩ <;> refine congrArg Host.Outcome.next ?_ <;> rw [takeExpiry_hold hn]
  · exact holdExpiry_notDue hp hdue
  · rw [holdExpiry_waits hp hdue (by rw [hk]; nofun), examine_of_storeSpace true hp hk ha]
    exact examineWrite_expired a l w hp hd hf hlow hs
  · rw [holdExpiry_waits hp hdue (by rw [hk]; nofun), examine_of_queueSlot true hp hk]
    exact examineCommit_expired tag hp hd hq hs
  · rw [holdExpiry_sync hp hdue hk]
    exact completeQuiet_eq (s := setFlag .hold (clearSyncFlags s)) hp

end Sys2Proof.Machine
end

section
/-! PROOFS. What `hostSound` looks at as one view of the state; when the access in progress may go on as it is, and when it
may before its examination; what leaves the requests at the array port and the queue alone. -/

namespace Sys2Proof.Machine

/-! ### The view -/

/-- What decides of a domain whether an access may be held for it. -/
structure Taking where
  state : DomState
  closing : Bool
  group : List Entry

/-- What `hostSound` looks at, but for the levels asserted again: the access in progress with the reason it is held, how
many host requests are at the array port, the queue, the domains, the flow state, POWER_LOW and whether the engine is
RECOVERING. -/
structure Hosted where
  held : Option (Access × Hold)
  outstanding : Nat
  queue : List GroupRecord
  domains : Dom → Taking
  flow : Flow
  low : Bool
  recovering : Bool

/-- The access in progress and the reason it is held. -/
def HostPort.held : HostPort → Option (Access × Hold)
  | .inProgress p => some (p.access, p.hold)
  | _ => none

/-- What a view shows of a domain. -/
def Domain.taking (x : Domain) : Taking := ⟨x.state, x.closing, x.group⟩

/-- The view of a state. -/
def State.hosted (s : State) : Hosted where
  held := s.host.port.held
  outstanding := hostOutstanding s.port
  queue := s.queue
  domains d := (s.domains.get d).taking
  flow := s.store.flow
  low := s.power.low
  recovering := s.engine.state.isRecovering

/-- Domain d is in EMPTY or OPEN. -/
def Hosted.takes (v : Hosted) (d : Dom) : Prop := (v.domains d).state = .empty ∨ (v.domains d).state = .opened

/-- The access is a write with a lane, at an address of its own in domain d (R50). -/
def Hosted.newWrite (v : Hosted) (d : Dom) (a : Access) : Prop :=
  ∃ addr l w hdp, a = .write addr l w hdp ∧ l.isEmpty = false ∧ ∀ e ∈ (v.domains d).group, e.addr ≠ addr

/-- What the access in progress must be for the reason it is held: `holdSound` on the view. -/
def Hosted.stays (v : Hosted) (a : Access) : Hold → Prop
  | .deciding => False
  | .recovery => v.recovering = true
  | .storeSpace d => v.takes d ∧ v.flow = .throttled ∧ v.low = false ∧ v.newWrite d a
  | .queueSlot d _ => v.takes d ∧ (v.domains d).closing = true ∧ v.queue.length = 32 ∧ v.low = false
  | .sync d => ∃ g ∈ v.queue, g.sync = true ∧ g.domain = d
  | .mergeRead _ => ∃ addr, a = .read addr
  | .plainRead => ∃ addr, a = .read addr
  | .passWrite => ∃ addr l w hdp, a = .write addr l w hdp

/-- What it must be where an examination follows, which looks at the rest. -/
def Hosted.mayWait (v : Hosted) (a : Access) : Hold → Prop
  | .storeSpace d => (v.domains d).state ≠ .off ∧ v.newWrite d a
  | .queueSlot d _ => v.takes d ∧ (v.domains d).closing = true
  | k => v.stays a k

/-- How many host requests at the array port an access accounts for. -/
def requestsOf : Option (Access × Hold) → Nat
  | some (_, k) => k.forArray.toNat
  | none => 0

/-- How many records the access is waited on by. -/
def waitersOf : Option (Access × Hold) → Nat
  | some (_, .sync _) => 1
  | _ => 0

/-- The Host Port, the array port and the queue agree on the access in progress, which is as `K` asks. -/
structure Agrees (K : Hosted → Access → Hold → Prop) (v : Hosted) : Prop where
  held : ∀ a k, v.held = some (a, k) → K v a k
  array : v.outstanding = requestsOf v.held
  waiters : (v.queue.filter (fun g => g.sync)).length = waitersOf v.held
  bounded : v.queue.length ≤ 32

/-- The access in progress may go on as it is. -/
abbrev SoundHost (v : Hosted) : Prop := Agrees Hosted.stays v

/-- The access in progress may be examined. -/
abbrev LooseHost (v : Hosted) : Prop := Agrees Hosted.mayWait v

/-- No host request is at the array port, no record has a commit waiting, and the queue is within its slots. -/
structure Unclaimed (v : Hosted) : Prop where
  array : v.outstanding = 0
  waiters : ∀ g ∈ v.queue, g.sync = false
  bounded : v.queue.length ≤ 32

section View

variable {s t : State}

theorem held_eq_some {a : Access} {k : Hold} (h : s.hosted.held = some (a, k)) :
    ∃ p, s.host.port = .inProgress p ∧ p.access = a ∧ p.hold = k := by
  change s.host.port.held = some (a, k) at h
  cases hp : s.host.port with
  | inProgress p =>
    rw [hp] at h
    cases h
    exact ⟨p, rfl, rfl, rfl⟩
  | _ => rw [hp] at h; cases h

theorem held_of_inProgress {p : Progress} (h : s.host.port = .inProgress p) : s.hosted.held = some (p.access, p.hold) :=
  congrArg HostPort.held h

theorem held_eq_none (h : ∀ p, s.host.port ≠ .inProgress p) : s.hosted.held = none := by
  cases hh : s.hosted.held with
  | none => rfl
  | some x =>
    obtain ⟨p, hp, _⟩ := held_eq_some (a := x.1) (k := x.2) hh
    exact absurd hp (h p)

theorem heldFor_eq (s : State) : heldFor s = s.hosted.held.map Prod.snd := by
  unfold heldFor State.hosted
  cases s.host.port <;> rfl

theorem stays_iff {p : Progress} : holdSound s p ↔ s.hosted.stays p.access p.hold := by
  unfold holdSound
  cases p.hold <;> exact Iff.rfl

/-- `hostSound` on the view, with the levels asserted again beside it. -/
theorem hostSound_iff (hq : queueBounded s) :
    hostSound s ↔ SoundHost s.hosted
      ∧ ∀ bus, s.host.again = some bus → ∃ p, s.host.port = .inProgress p ∧ p.ended = true := by
  have hreq : hostRequestsDue s = requestsOf s.hosted.held := by
    unfold hostRequestsDue
    rw [heldFor_eq]
    cases s.hosted.held <;> rfl
  have hwait : syncWaitersDue s = waitersOf s.hosted.held := by
    unfold syncWaitersDue
    rw [heldFor_eq]
    rcases s.hosted.held with _ | ⟨a, _ | _⟩ <;> rfl
  constructor
  · rintro ⟨hheld, hagain, harray, hwaiters⟩
    refine ⟨⟨fun a k h => ?_, harray.trans hreq, hwaiters.trans hwait, hq⟩, hagain⟩
    obtain ⟨p, hp, rfl, rfl⟩ := held_eq_some h
    exact stays_iff.mp (hheld p hp)
  · rintro ⟨⟨hheld, harray, hwaiters, _⟩, hagain⟩
    exact ⟨fun p hp => stays_iff.mpr (hheld _ _ (held_of_inProgress hp)), hagain, harray.trans hreq.symm,
      hwaiters.trans hwait.symm⟩

end View

/-! ### Agreement and its weaker forms -/

/-- A hold that accounts for a request at the array port or for a record that waits. -/
def Hold.claims : Hold → Bool
  | .sync _ => true
  | k => k.forArray

theorem requestsOf_of_not_claims {a : Access} {k : Hold} (h : k.claims = false) : requestsOf (some (a, k)) = 0 := by
  cases k <;> simp_all [Hold.claims, requestsOf, Hold.forArray]

theorem waitersOf_of_not_claims {a : Access} {k : Hold} (h : k.claims = false) : waitersOf (some (a, k)) = 0 := by
  cases k <;> simp_all [Hold.claims, waitersOf]

theorem filter_sync_eq_zero {q : List GroupRecord} :
    (q.filter (fun g => g.sync)).length = 0 ↔ ∀ g ∈ q, g.sync = false := by
  simp [List.filter_eq_nil_iff]

section Agreement

variable {K L : Hosted → Access → Hold → Prop} {v : Hosted}

theorem Agrees.mono (h : Agrees K v) (hK : ∀ a k, v.held = some (a, k) → K v a k → L v a k) : Agrees L v :=
  ⟨fun a k hk => hK a k hk (h.held a k hk), h.array, h.waiters, h.bounded⟩

/-- An access that may go on may be examined. -/
theorem mayWait_of_stays {a : Access} {k : Hold} (h : v.stays a k) : v.mayWait a k := by
  cases k with
  | storeSpace d =>
    obtain ⟨htake, _, _, hnew⟩ := h
    refine ⟨?_, hnew⟩
    obtain htake | htake := htake <;> rw [htake] <;> nofun
  | queueSlot d tag =>
    obtain ⟨htake, hclosing, _⟩ := h
    exact ⟨htake, hclosing⟩
  | _ => exact h

theorem Agrees.loose (h : SoundHost v) : LooseHost v := h.mono fun _ _ _ => mayWait_of_stays

/-- An access held for a reason that claims nothing leaves nothing claimed. -/
theorem Agrees.unclaimed (h : Agrees K v) (hk : ∀ a k, v.held = some (a, k) → k.claims = false) : Unclaimed v := by
  obtain ⟨_, harray, hwaiters, hbounded⟩ := h
  cases hh : v.held with
  | none =>
    rw [hh] at harray hwaiters
    exact ⟨harray, filter_sync_eq_zero.mp hwaiters, hbounded⟩
  | some x =>
    obtain ⟨a, k⟩ := x
    rw [hh, requestsOf_of_not_claims (hk a k hh)] at harray
    rw [hh, waitersOf_of_not_claims (hk a k hh)] at hwaiters
    exact ⟨harray, filter_sync_eq_zero.mp hwaiters, hbounded⟩

theorem Agrees.unclaimed_of_held (h : Agrees K v) {a : Access} {k : Hold} (hh : v.held = some (a, k))
    (hk : k.claims = false) : Unclaimed v :=
  h.unclaimed fun b j hj => by
    cases hh.symm.trans hj
    exact hk

theorem Unclaimed.agrees {a : Access} {k : Hold} (h : Unclaimed v) (hh : v.held = some (a, k)) (hk : k.claims = false)
    (hK : K v a k) : Agrees K v := by
  refine ⟨fun b j hj => ?_, ?_, ?_, h.bounded⟩
  · cases hh.symm.trans hj
    exact hK
  · rw [hh, requestsOf_of_not_claims hk]
    exact h.array
  · rw [hh, waitersOf_of_not_claims hk]
    exact filter_sync_eq_zero.mpr h.waiters

/-- With no access in progress nothing more is asked. -/
theorem Unclaimed.ended (h : Unclaimed v) (hh : v.held = none) : Agrees K v := by
  refine ⟨fun b j hj => ?_, ?_, ?_, h.bounded⟩
  · cases hh.symm.trans hj
  · rw [hh]
    exact h.array
  · rw [hh]
    exact filter_sync_eq_zero.mpr h.waiters

/-- A change of the flow state matters only to an access that is not examined. -/
theorem Agrees.withFlow (h : LooseHost v) (f : Flow) : LooseHost { v with flow := f } :=
  ⟨fun a k hk => by cases k <;> exact h.held a _ hk, h.array, h.waiters, h.bounded⟩

end Agreement

/-! ### What leaves the requests and the queue alone -/

/-- The array port and the queue. -/
def State.claims (s : State) : Port × List GroupRecord := (s.port, s.queue)

section Claims

variable (s : State)

theorem claims_setHold (k : Hold) : (setHold k s).claims = s.claims := by
  unfold setHold
  split <;> rfl

theorem claims_completeQuiet : (completeQuiet s).claims = s.claims := by
  unfold completeQuiet
  split <;> rfl

theorem claims_completeRead (w : Word) : (completeRead w s).claims = s.claims := by
  unfold completeRead
  split <;> rfl

theorem claims_flowAfterTake : (flowAfterTake s).claims = s.claims := by
  unfold flowAfterTake
  split <;> rfl

theorem claims_flowAfterRelease (n : Nat) : (flowAfterRelease n s).claims = s.claims := by
  unfold flowAfterRelease
  split <;> rfl

theorem claims_breakCore (d : Dom) (c : BreakCause) : (breakCore d c s).claims = s.claims := by
  unfold breakCore
  split <;> rfl

theorem claims_breakDomain (d : Dom) (c : BreakCause) : (breakDomain d c s).claims = s.claims := by
  rw [breakDomain, claims_flowAfterRelease, claims_breakCore]

theorem claims_breakIfOpen (c : BreakCause) (d : Dom) : (breakIfOpen c s d).claims = s.claims := by
  unfold breakIfOpen
  split
  · exact claims_breakCore s d c
  · rfl

theorem claims_breakAll (c : BreakCause) : (breakAll c s).claims = s.claims := by
  simp only [breakAll, Ix4.all, List.foldl, claims_breakIfOpen]

theorem claims_loadAge (d : Dom) : (loadAge d s).claims = s.claims := by
  unfold loadAge
  split <;> rfl

theorem claims_reloadIfIdle (d : Dom) : (reloadIfIdle d s).claims = s.claims := by
  unfold reloadIfIdle
  split
  · exact claims_loadAge s d
  · rfl

/-- A staged write that is placed brings no request and no record. -/
theorem claims_placeNow (d : Dom) (a : Addr) (l : Lanes) (w : Word) : (placeNow d a l w s).claims = s.claims := by
  unfold placeNow
  split
  · rw [takeCoalesce, claims_completeQuiet, claims_reloadIfIdle]
    rfl
  · split
    · exact (claims_completeQuiet _).trans (claims_breakDomain s d .ceiling)
    · unfold takeNew
      dsimp only
      rw [claims_completeQuiet, claims_flowAfterTake]
      split
      · exact claims_reloadIfIdle _ d
      · exact claims_loadAge _ d

end Claims

/-! ### Ends of the access -/

section Ends

variable {K : Hosted → Access → Hold → Prop} {s t : State}

theorem Unclaimed.of_claims (h : Unclaimed s.hosted) (ht : t.claims = s.claims) : Unclaimed t.hosted := by
  obtain ⟨hport, hqueue⟩ := Prod.mk.inj ht
  refine ⟨?_, ?_, ?_⟩
  · exact (congrArg hostOutstanding hport).trans h.array
  · exact fun g (hg : g ∈ t.queue) => h.waiters g (hqueue ▸ hg : g ∈ s.queue)
  · exact (congrArg List.length hqueue).trans_le h.bounded

theorem held_completeQuiet (s : State) : (completeQuiet s).hosted.held = none := by
  refine held_eq_none fun p => ?_
  unfold completeQuiet
  split
  · exact quietEnd_ne_inProgress _ p
  · next h => exact h p

theorem held_completeRead (w : Word) (s : State) : (completeRead w s).hosted.held = none := by
  refine held_eq_none fun p => ?_
  unfold completeRead
  split
  · exact readEnd_ne_inProgress _ w p
  · next h => exact h p

theorem held_placeNow (d : Dom) (a : Addr) (l : Lanes) (w : Word) (s : State) :
    (placeNow d a l w s).hosted.held = none := by
  unfold placeNow
  split
  · exact held_completeQuiet _
  · split <;> exact held_completeQuiet _

/-- The access completes after changes that leave the requests and the queue alone. -/
theorem Unclaimed.completeQuiet (h : Unclaimed s.hosted) (ht : t.claims = s.claims) :
    Agrees K (completeQuiet t).hosted :=
  (h.of_claims ((claims_completeQuiet t).trans ht)).ended (held_completeQuiet t)

theorem Unclaimed.completeRead (w : Word) (h : Unclaimed s.hosted) (ht : t.claims = s.claims) :
    Agrees K (completeRead w t).hosted :=
  (h.of_claims ((claims_completeRead t w).trans ht)).ended (held_completeRead w t)

theorem Unclaimed.dropWrite (c : DropCause) (h : Unclaimed s.hosted) (ht : t.claims = s.claims) :
    Agrees K (dropWrite c t).hosted :=
  h.completeQuiet (t := setFlag .dropped (bump .writesDropped { t with host := { t.host with dropcause := c } })) ht

theorem Unclaimed.commitToBroken (d : Dom) (h : Unclaimed s.hosted) (ht : t.claims = s.claims) :
    Agrees K (commitToBroken d t).hosted :=
  h.dropWrite .broken (t := modDomain d Domain.acknowledge t) ht

theorem Unclaimed.placeNow (d : Dom) (a : Addr) (l : Lanes) (w : Word) (h : Unclaimed s.hosted) :
    Agrees K (placeNow d a l w s).hosted :=
  (h.of_claims (claims_placeNow s d a l w)).ended (held_placeNow d a l w s)

end Ends

end Sys2Proof.Machine
end

section
/-! PROOFS. Examinations, begins, grants and the leaving of groups keep the Host Port, the array port and the queue in
agreement. -/

namespace Sys2Proof.Machine

/-! ### The host's request at the array port -/

section ArrayPort

variable {p : Port}

/-- An arbitration at an idle port brings and takes no host request (R135). -/
theorem hostOutstanding_arbitrate (h : p.access = none) : hostOutstanding p.arbitrate = hostOutstanding p := by
  unfold Port.arbitrate
  split
  · next hr _ => split <;> simp [hostOutstanding, Port.grantHost, Port.grantEngine, Port.begin, h, hr]
  · next hr _ => simp [hostOutstanding, Port.grantHost, Port.begin, h, hr]
  · next hr _ => simp [hostOutstanding, Port.grantEngine, Port.begin, h, hr]
  · next hr _ _ => simp [hostOutstanding, Port.grantMgmt, Port.begin, h, hr]
  · rfl

/-- A request of another requester is no host request. -/
theorem hostOutstanding_post {who : Requester} (r : Request) (h : who ≠ .host) :
    hostOutstanding (p.post who r) = hostOutstanding p := by
  have hw : hostOutstanding (p.wait who r) = hostOutstanding p := by
    cases who with
    | host => exact absurd rfl h
    | _ => rfl
  have ha : (p.wait who r).access = p.access := by cases who <;> rfl
  unfold Port.post
  split
  · exact hw
  · next hn => exact (hostOutstanding_arbitrate (ha.trans (by simpa using hn))).trans hw

/-- A host request at a port where the host has none. -/
theorem hostOutstanding_post_host (r : Request) (h : hostOutstanding p = 0) : hostOutstanding (p.post .host r) = 1 := by
  have hw : hostOutstanding (p.wait .host r) = 1 := by
    obtain ⟨_, haccess⟩ := Nat.add_eq_zero_iff.mp h
    simp only [hostOutstanding, Port.wait, haccess]
    rfl
  unfold Port.post
  split
  · exact hw
  · next hn => exact (hostOutstanding_arbitrate (p := p.wait .host r) (show p.access = none by simpa using hn)).trans hw

/-- The end of an access of another requester leaves the host's request. -/
theorem hostOutstanding_finish {a : ArrayAccess} (ha : p.access = some a) (hr : a.requester ≠ .host) :
    hostOutstanding p.finish = hostOutstanding p := by
  rw [Port.finish, hostOutstanding_arbitrate rfl]
  simp [hostOutstanding, ha, hr]

/-- The end of the host's access is the end of one request. -/
theorem hostOutstanding_finish_host {a : ArrayAccess} (ha : p.access = some a) (hr : a.requester = .host) :
    hostOutstanding p.finish + 1 = hostOutstanding p := by
  rw [Port.finish, hostOutstanding_arbitrate rfl]
  simp [hostOutstanding, ha, hr]

end ArrayPort

/-! ### What leaves the view alone -/

section View

variable (s : State)

theorem hosted_withPort {p : Port} (h : hostOutstanding p = hostOutstanding s.port) :
    { s with port := p }.hosted = s.hosted := congrArg (fun n => { s.hosted with outstanding := n }) h

theorem hosted_postRequest {who : Requester} (r : Request) (h : who ≠ .host) :
    (postRequest who r s).hosted = s.hosted := hosted_withPort s (hostOutstanding_post r h)

theorem hosted_requestEngine : (requestEngine s).hosted = s.hosted := by
  unfold requestEngine
  split
  · exact hosted_postRequest s _ nofun
  · rfl

theorem hosted_setEngine {e : EngineState} (h : e.isRecovering = s.engine.state.isRecovering) :
    (setEngine e s).hosted = s.hosted := congrArg (fun b => { s.hosted with recovering := b }) h

theorem hosted_goOn {e : EngineState} (h : e.isRecovering = s.engine.state.isRecovering) :
    (goOn e s).hosted = s.hosted := (hosted_requestEngine _).trans (hosted_setEngine s h)

theorem hosted_beginHead (h : canBegin s = true) : (beginHead s).hosted = s.hosted := by
  refine (hosted_requestEngine _).trans (hosted_setEngine s ?_)
  rw [idle_of_canBegin h]
  split <;> rfl

theorem hosted_tryBegin : (tryBegin s).hosted = s.hosted := by
  unfold tryBegin
  split
  · next h => exact hosted_beginHead s h
  · rfl

theorem hosted_modDomain {d : Dom} {f : Domain → Domain}
    (h : (f (s.domains.get d)).taking = (s.domains.get d).taking) : (modDomain d f s).hosted = s.hosted := by
  refine congrArg (fun v => { s.hosted with domains := v }) (funext fun e => ?_)
  rw [modDomain_domains, Four.get_set]
  split
  · next he => rw [h, he]
  · rfl

theorem hosted_flowAfterRelease (n : Nat) :
    (flowAfterRelease n s).hosted = { s.hosted with flow := (flowAfterRelease n s).store.flow } := by
  unfold flowAfterRelease
  split <;> rfl

theorem hosted_flowRetest : (flowRetest s).hosted = { s.hosted with flow := (flowRetest s).store.flow } := by
  unfold flowRetest flowAfterTake
  split
  · split <;> rfl
  · split <;> rfl

/-- A hold takes the place of another. -/
theorem hosted_setHold {a : Access} {j : Hold} (k : Hold) (h : s.hosted.held = some (a, j)) :
    (setHold k s).hosted = { s.hosted with held := some (a, k) } := by
  obtain ⟨p, hp, rfl, _⟩ := held_eq_some h
  simp only [setHold, hp]
  rfl

end View

section Groups

variable {s t : State}

theorem Agrees.flowAfterRelease (n : Nat) (h : LooseHost s.hosted) : LooseHost (flowAfterRelease n s).hosted := by
  rw [hosted_flowAfterRelease]
  exact h.withFlow _

/-! ### Examinations -/

theorem Agrees.examineWrite {b : Access} {d : Dom} (x : Bool) (a : Addr) (l : Lanes) (w : Word)
    (h : LooseHost s.hosted) (hheld : s.hosted.held = some (b, .storeSpace d)) :
    SoundHost (examineWrite x d a l w s).hosted := by
  have hu : Unclaimed s.hosted := h.unclaimed_of_held hheld rfl
  unfold Machine.examineWrite
  split
  · exact hu.dropWrite _ rfl
  · next hbroken =>
    split
    · exact hu.dropWrite _ rfl
    · next hlow =>
      split
      · exact hu.placeNow d a l w
      · next hflow =>
        split
        · exact hu.dropWrite _ (claims_breakDomain s d .hold)
        · split
          · obtain ⟨hoff, hnew⟩ := h.held _ _ hheld
            have htake : s.hosted.takes d := by
              change (s.domains.get d).state ≠ .off at hoff
              change (s.domains.get d).state = .empty ∨ (s.domains.get d).state = .opened
              cases hd : (s.domains.get d).state <;> simp_all
            have hthr : s.store.flow = .throttled := by
              cases hf : s.store.flow <;> simp_all
            exact hu.agrees hheld rfl ⟨htake, hthr, Bool.eq_false_iff.mpr hlow, hnew⟩
          · exact hu.dropWrite _ (claims_breakDomain s d .storeFull)

theorem filter_sync_append (q : List GroupRecord) (g : GroupRecord) :
    ((q ++ [g]).filter (fun g => g.sync)).length = (q.filter (fun g => g.sync)).length + g.sync.toNat := by
  cases hg : g.sync <;> simp [List.filter_append, hg]

/-- A commit that a free slot queues goes on held for sync, with its record waiting, or ends (R26, R30). -/
theorem Agrees.commitQueued {a : Access} {k : Hold} (d : Dom) (tag : Word) (hu : Unclaimed s.hosted)
    (hheld : s.hosted.held = some (a, k)) (hslot : slotFree s = true) : SoundHost (commitQueued d tag s).hosted := by
  have hlt : s.queue.length < 32 := (slotFree_iff s).mp hslot
  have hlen : ∀ g : GroupRecord, (s.queue ++ [g]).length ≤ 32 := fun g => by
    rw [List.length_append, List.length_singleton]
    exact hlt
  have hzero : (s.queue.filter (fun g => g.sync)).length = 0 := filter_sync_eq_zero.mpr hu.waiters
  unfold Machine.commitQueued
  split
  · rw [hosted_setHold (queueGroup d tag true s) (.sync d) (a := a) (j := k) hheld]
    refine ⟨fun b j hj => ?_, hu.array, ?_, hlen _⟩
    · cases hj
      exact ⟨newRecord s d tag true, List.mem_append_right _ (List.mem_singleton_self _), rfl, rfl⟩
    · exact (filter_sync_append _ _).trans (by rw [hzero]; rfl)
  · have hu' : Unclaimed (queueGroup d tag false s).hosted := by
      refine ⟨hu.array, filter_sync_eq_zero.mp ?_, hlen _⟩
      exact (filter_sync_append _ _).trans (by rw [hzero]; rfl)
    exact hu'.completeQuiet rfl

theorem Agrees.examineCommit {a : Access} {d : Dom} {tag : Word} (x : Bool) (h : LooseHost s.hosted)
    (hheld : s.hosted.held = some (a, .queueSlot d tag)) : SoundHost (examineCommit x d tag s).hosted := by
  have hu : Unclaimed s.hosted := h.unclaimed_of_held hheld rfl
  unfold Machine.examineCommit
  split
  · next hslot =>
    rw [hosted_tryBegin]
    exact Agrees.commitQueued d tag hu hheld hslot
  · next hfull =>
    split
    · exact hu.commitToBroken d (t := setFlag .hold _) (claims_breakDomain s d .hold)
    · split
      · next hdrain =>
        obtain ⟨htake, hclosing⟩ := h.held _ _ hheld
        have hlen : s.queue.length = 32 := by
          have hbounded : s.queue.length ≤ 32 := h.bounded
          have := mt (slotFree_iff s).mpr hfull
          omega
        have hlow : s.power.low = false := by
          simp only [drainPending, Bool.and_eq_true, Bool.not_eq_true'] at hdrain
          exact hdrain.2
        exact hu.agrees hheld rfl ⟨htake, hclosing, hlen, hlow⟩
      · exact hu.commitToBroken d (claims_breakDomain s d .queueFull)

/-- After an examination the access in progress may go on as it is (R28, R53). -/
theorem Agrees.examine (x : Bool) (h : LooseHost s.hosted) : SoundHost (examine x s).hosted := by
  unfold Machine.examine
  split
  · next p hp =>
    have hheld := held_of_inProgress hp
    split
    · next hk _ => exact h.examineWrite x _ _ _ (hk ▸ hheld)
    · next hk => exact h.examineCommit x (hk ▸ hheld)
    · next hslot hwrite =>
      refine h.mono fun a k hk hwait => ?_
      cases hheld.symm.trans hk
      cases hk' : p.hold with
      | storeSpace d =>
        rw [hk'] at hwait
        obtain ⟨_, addr, l, w, hdp, ha, _⟩ := hwait
        exact absurd ha (hwrite d addr l w hdp hk')
      | queueSlot d tag => exact absurd hk' (hslot d tag)
      | _ => rw [hk'] at hwait; exact hwait
  · next hp =>
    refine h.mono fun a k hk _ => ?_
    rw [held_eq_none hp] at hk
    cases hk

/-- A change outside the view, with an examination after it. -/
theorem Agrees.examine_of_eq (x : Bool) (h : SoundHost s.hosted) (ht : t.hosted = s.hosted) :
    SoundHost (Machine.examine x t).hosted := Agrees.examine x (Agrees.loose (ht ▸ h))

theorem Agrees.beginAndExamine (h : SoundHost s.hosted) : SoundHost (beginAndExamine s).hosted := by
  unfold Machine.beginAndExamine
  split
  · next hc => exact h.examine_of_eq false (hosted_beginHead s hc)
  · exact h

/-! ### Breaks -/

/-- A domain gives up its group and stays enabled, and no commit of its waits for a slot. -/
theorem mayWait_of_broken {v : Hosted} {d : Dom} {x : Taking} {a : Access} {k : Hold} (h : v.mayWait a k)
    (hk : ∀ tag, k ≠ .queueSlot d tag) (hx : x.state ≠ .off) (hg : x.group = []) :
    Hosted.mayWait { v with domains := fun e => if e = d then x else v.domains e } a k := by
  cases k with
  | storeSpace e =>
    obtain ⟨hoff, addr, l, w, hdp, ha, hl, hnew⟩ := h
    by_cases he : e = d
    · exact ⟨by simp [he, hx], addr, l, w, hdp, ha, hl, by simp [he, hg]⟩
    · exact ⟨by simpa [he] using hoff, addr, l, w, hdp, ha, hl, by simpa [he] using hnew⟩
  | queueSlot e tag =>
    have he : e ≠ d := fun he => hk tag (he ▸ rfl)
    obtain ⟨htake, hclosing⟩ := h
    exact ⟨by simpa [Hosted.takes, he] using htake, by simpa [he] using hclosing⟩
  | _ => exact h

theorem hosted_set (d : Dom) (x : Domain) (s : State) :
    { s with domains := s.domains.set d x }.hosted
      = { s.hosted with domains := fun e => if e = d then x.taking else s.hosted.domains e } := by
  refine congrArg (fun v => { s.hosted with domains := v }) (funext fun e => ?_)
  rw [Four.get_set]
  split <;> rfl

theorem Agrees.breakCore {d : Dom} (c : BreakCause) (h : LooseHost s.hosted)
    (hk : ∀ a tag, s.hosted.held ≠ some (a, .queueSlot d tag)) : LooseHost (breakCore d c s).hosted := by
  have hbroke : LooseHost (modDomain d (Domain.broke c) s).hosted := by
    rw [modDomain, hosted_set]
    exact ⟨fun a k hheld => mayWait_of_broken (h.held a k hheld) (fun tag he => hk a tag (he ▸ hheld)) nofun rfl,
      h.array, h.waiters, h.bounded⟩
  unfold Machine.breakCore
  split
  · exact hbroke
  · exact hbroke
  · exact h
  · exact h

theorem Agrees.breakDomain {d : Dom} (c : BreakCause) (h : LooseHost s.hosted)
    (hk : ∀ a tag, s.hosted.held ≠ some (a, .queueSlot d tag)) : LooseHost (breakDomain d c s).hosted :=
  (h.breakCore c hk).flowAfterRelease _

theorem held_breakIfOpen (c : BreakCause) (d : Dom) (s : State) : (breakIfOpen c s d).hosted.held = s.hosted.held := by
  unfold breakIfOpen Machine.breakCore
  split
  · split <;> rfl
  · rfl

theorem Agrees.breakIfOpen (c : BreakCause) (d : Dom) (h : LooseHost s.hosted)
    (hk : ∀ a e tag, s.hosted.held ≠ some (a, .queueSlot e tag)) : LooseHost (breakIfOpen c s d).hosted := by
  unfold Machine.breakIfOpen
  split
  · exact h.breakCore c fun a tag => hk a d tag
  · exact h

theorem Agrees.breakAll (c : BreakCause) (h : LooseHost s.hosted)
    (hk : ∀ a e tag, s.hosted.held ≠ some (a, .queueSlot e tag)) : LooseHost (breakAll c s).hosted := by
  have step : ∀ d (u : State), (LooseHost u.hosted ∧ ∀ a e tag, u.hosted.held ≠ some (a, .queueSlot e tag)) →
      LooseHost (Machine.breakIfOpen c u d).hosted
        ∧ ∀ a e tag, (Machine.breakIfOpen c u d).hosted.held ≠ some (a, .queueSlot e tag) :=
    fun d u hu => ⟨hu.1.breakIfOpen c d hu.2, held_breakIfOpen c d u ▸ hu.2⟩
  exact (step .i3 _ (step .i2 _ (step .i1 _ (step .i0 _ ⟨h, hk⟩)))).1

/-! ### Queued groups -/

/-- A group is queued that no commit waits for: its domain goes to EMPTY, and a record more stands in the queue (R25). -/
theorem hosted_queueGroup (d : Dom) (tag : Word) (b : Bool) (s : State) :
    (queueGroup d tag b s).hosted = { s.hosted with
      queue := s.queue ++ [newRecord s d tag b]
      domains := fun e => if e = d then ⟨.empty, false, []⟩ else s.hosted.domains e } :=
  congrArg (fun v : Hosted => { v with queue := s.queue ++ [newRecord s d tag b] }) (hosted_set d _ s)

theorem stays_of_queued {v : Hosted} {d : Dom} {g : GroupRecord} {a : Access} {k : Hold} (h : v.stays a k)
    (hk : ∀ e tag, k ≠ .queueSlot e tag) :
    Hosted.stays { v with
      queue := v.queue ++ [g], domains := fun e => if e = d then ⟨.empty, false, []⟩ else v.domains e } a k := by
  cases k with
  | storeSpace e =>
    obtain ⟨htake, hflow, hlow, addr, l, w, hdp, ha, hl, hnew⟩ := h
    by_cases he : e = d
    · exact ⟨.inl (by simp [he]), hflow, hlow, addr, l, w, hdp, ha, hl, by simp [he]⟩
    · exact ⟨by simpa [Hosted.takes, he] using htake, hflow, hlow, addr, l, w, hdp, ha, hl, by simpa [he] using hnew⟩
  | queueSlot e tag => exact absurd rfl (hk e tag)
  | sync e =>
    obtain ⟨g', hg', hsync, hd⟩ := h
    exact ⟨g', List.mem_append_left _ hg', hsync, hd⟩
  | _ => exact h

/-- The same where an examination follows. -/
theorem mayWait_of_queued {v : Hosted} {d : Dom} {g : GroupRecord} {a : Access} {k : Hold} (h : v.mayWait a k)
    (hk : ∀ e tag, k ≠ .queueSlot e tag) :
    Hosted.mayWait { v with
      queue := v.queue ++ [g], domains := fun e => if e = d then ⟨.empty, false, []⟩ else v.domains e } a k := by
  cases k with
  | storeSpace e =>
    obtain ⟨hoff, addr, l, w, hdp, ha, hl, hnew⟩ := h
    by_cases he : e = d
    · exact ⟨by simp [he], addr, l, w, hdp, ha, hl, by simp [he]⟩
    · exact ⟨by simpa [he] using hoff, addr, l, w, hdp, ha, hl, by simpa [he] using hnew⟩
  | queueSlot e tag => exact absurd rfl (hk e tag)
  | sync e => exact stays_of_queued (a := a) (k := .sync e) h hk
  | _ => exact h

/-- A record that no commit waits for changes no count. -/
theorem Agrees.queueGroup {K : Hosted → Access → Hold → Prop} {d : Dom} (tag : Word) (h : Agrees K s.hosted)
    (hslot : slotFree s = true)
    (hK : ∀ a k, s.hosted.held = some (a, k) → K (queueGroup d tag false s).hosted a k) :
    Agrees K (queueGroup d tag false s).hosted := by
  have hlt : s.queue.length < 32 := (slotFree_iff s).mp hslot
  refine ⟨hK, h.array, (filter_sync_append _ _).trans h.waiters, ?_⟩
  change (s.queue ++ [_]).length ≤ 32
  rw [List.length_append, List.length_singleton]
  exact hlt

/-- While a slot is free no commit waits for one. -/
theorem Agrees.not_queueSlot (h : SoundHost s.hosted) (hslot : slotFree s = true) {a : Access} {k : Hold}
    (hk : s.hosted.held = some (a, k)) (d : Dom) (tag : Word) : k ≠ .queueSlot d tag := by
  rintro rfl
  obtain ⟨_, _, hlen, _⟩ := h.held a _ hk
  exact absurd ((slotFree_iff s).mp hslot) (by change s.queue.length = 32 at hlen; omega)

theorem Agrees.queueGroup_sound {d : Dom} (tag : Word) (h : SoundHost s.hosted) (hslot : slotFree s = true) :
    SoundHost (Machine.queueGroup d tag false s).hosted := by
  refine h.queueGroup tag hslot fun a k hk => ?_
  rw [hosted_queueGroup]
  exact stays_of_queued (h.held a k hk) (h.not_queueSlot hslot hk)

/-! ### Grants -/

/-- What the access in progress is while slots are given away: one that waits for a slot has found none free (R29). -/
def Hosted.granted (v : Hosted) (a : Access) (k : Hold) : Prop :=
  v.mayWait a k ∧ ∀ d tag, k = .queueSlot d tag → 32 ≤ v.queue.length

theorem Agrees.grantCommit (h : LooseHost s.hosted) : Agrees Hosted.granted (grantCommit s).hosted := by
  unfold Machine.grantCommit
  split
  · next d tag hfor =>
    obtain ⟨p, hp, hk⟩ := heldFor_eq_some hfor
    have hheld : s.hosted.held = some (p.access, .queueSlot d tag) := hk ▸ held_of_inProgress hp
    split
    · next hslot =>
      have hsound := Agrees.commitQueued d tag (h.unclaimed_of_held hheld rfl) hheld hslot
      refine hsound.mono fun a k hk' hstays => ⟨mayWait_of_stays hstays, ?_⟩
      rintro e tag rfl
      obtain ⟨_, _, hlen, _⟩ := hstays
      exact hlen.ge
    · next hfull =>
      refine h.mono fun a k hk' hwait => ⟨hwait, fun _ _ _ => ?_⟩
      exact Nat.le_of_not_lt (mt (slotFree_iff s).mpr hfull)
  · next hfor =>
    refine h.mono fun a k hk hwait => ⟨hwait, ?_⟩
    rintro d tag rfl
    exact absurd (by rw [heldFor_eq, hk]; rfl) (hfor d tag)

theorem Agrees.grantPending (d : Dom) (h : Agrees Hosted.granted s.hosted) :
    Agrees Hosted.granted (grantPending s d).hosted := by
  unfold Machine.grantPending
  split
  · next hc =>
    obtain ⟨_, _, hslot⟩ := hc
    refine h.queueGroup _ hslot fun a k hk => ?_
    obtain ⟨hwait, hfull⟩ := h.held a k hk
    have hnot : ∀ e tag, k ≠ .queueSlot e tag := fun e tag he =>
      absurd (hfull e tag he) (Nat.not_le.mpr ((slotFree_iff s).mp hslot))
    rw [hosted_queueGroup]
    exact ⟨mayWait_of_queued hwait hnot, fun e tag he => absurd he (hnot e tag)⟩
  · exact h

/-- The end of a retire and of an ABANDON_HEAD: the slot is given away, the engine begins, the access is examined. -/
theorem Agrees.grantAndBegin (h : LooseHost s.hosted) : SoundHost (grantAndBegin s).hosted := by
  have hgrant : Agrees Hosted.granted (grantSlots s).hosted :=
    (((h.grantCommit.grantPending .i0).grantPending .i1).grantPending .i2).grantPending .i3
  refine Agrees.examine false ?_
  rw [hosted_tryBegin]
  exact hgrant.mono fun _ _ _ hg => hg.1

/-! ### Groups that leave the queue -/

/-- Records leave the queue: the commit that waits for one of them completes, and a commit that waits for none goes on
(R30, R101, R109, R111). -/
theorem Agrees.leave {gone rest : List GroupRecord} (h : LooseHost s.hosted) (hq : s.queue.Perm (gone ++ rest))
    (ht : t.hosted = { s.hosted with queue := rest, flow := t.store.flow }) :
    LooseHost (if gone.any (fun g => g.sync) then completeSync t else t).hosted := by
  have hcount : (gone.filter (fun g => g.sync)).length + (rest.filter (fun g => g.sync)).length
      = waitersOf s.hosted.held := by
    rw [← h.waiters, ← List.length_append, ← List.filter_append]
    exact (hq.filter _).length_eq.symm
  have hbounded : rest.length ≤ 32 := by
    have hlen := hq.length_eq
    rw [List.length_append] at hlen
    have : s.queue.length ≤ 32 := h.bounded
    omega
  have hheld : t.hosted.held = s.hosted.held := by rw [ht]
  have hout : t.hosted.outstanding = s.hosted.outstanding := by rw [ht]
  have hqueue : t.hosted.queue = rest := by rw [ht]
  split
  · next hany =>
    obtain ⟨g, hg, hsync⟩ := List.any_eq_true.mp hany
    have hpos : 0 < (gone.filter (fun g => g.sync)).length :=
      List.length_pos_of_mem (List.mem_filter.mpr ⟨hg, hsync⟩)
    obtain ⟨a, d, hk⟩ : ∃ a d, s.hosted.held = some (a, .sync d) := by
      rcases hh : s.hosted.held with _ | ⟨a, k⟩
      · rw [hh] at hcount
        exact absurd hcount (by simp only [waitersOf]; omega)
      · cases k with
        | sync d => exact ⟨a, d, rfl⟩
        | _ => rw [hh] at hcount; exact absurd hcount (by simp only [waitersOf]; omega)
    have hu : Unclaimed t.hosted := by
      have harray := h.array
      rw [hk] at hcount harray
      refine ⟨hout.trans harray, hqueue ▸ filter_sync_eq_zero.mp ?_, hqueue ▸ hbounded⟩
      change _ = 1 at hcount
      omega
    have hfor : heldFor t = some (.sync d) := by rw [heldFor_eq, hheld, hk]; rfl
    simp only [completeSync, hfor]
    exact hu.completeQuiet rfl
  · next hany =>
    have hnone : ∀ g ∈ gone, g.sync = false := by simpa using hany
    rw [filter_sync_eq_zero.mpr hnone, Nat.zero_add] at hcount
    rw [ht]
    refine ⟨fun a k hk => ?_, h.array, hcount, hbounded⟩
    have hwait := h.held a k hk
    cases k with
    | sync d =>
      obtain ⟨g, hg, hsync, hd⟩ := hwait
      refine ⟨g, (List.mem_append.mp (hq.mem_iff.mp hg)).resolve_left fun hgone => ?_, hsync, hd⟩
      rw [hnone g hgone] at hsync
      cases hsync
    | _ => exact hwait

/-- The head leaves, with one flow test, and the slot that it frees is given away. -/
theorem Agrees.headLeaves {g : GroupRecord} {rest : List GroupRecord} (n : Nat) (h : SoundHost s.hosted)
    (hq : s.queue = g :: rest) (ht : t.hosted = { s.hosted with queue := rest }) :
    SoundHost (Machine.grantAndBegin (if g.sync then completeSync (Machine.flowAfterRelease n t)
      else Machine.flowAfterRelease n t)).hosted := by
  have hleave := h.loose.leave (gone := [g]) (t := Machine.flowAfterRelease n t) (by rw [hq]; exact .refl _)
    (by rw [hosted_flowAfterRelease, ht])
  rw [List.any_cons, List.any_nil, Bool.or_false] at hleave
  exact hleave.grantAndBegin

end Groups

end Sys2Proof.Machine
end

section
/-! PROOFS. The same for the accesses that arrive, for the ends of array accesses and for the engine. -/

namespace Sys2Proof.Machine

section HostAccesses

variable {s : State}

/-- An access goes on under a hold that claims nothing. -/
theorem Unclaimed.withHeld {K : Hosted → Access → Hold → Prop} {v : Hosted} {a : Access} {k : Hold} (h : Unclaimed v)
    (hk : k.claims = false) (hK : K { v with held := some (a, k) } a k) : Agrees K { v with held := some (a, k) } :=
  Unclaimed.agrees (v := { v with held := some (a, k) }) ⟨h.array, h.waiters, h.bounded⟩ rfl hk hK

/-! ### Accesses that are presented -/

/-- An access is being decided: nothing is claimed for it yet. -/
structure Deciding (a : Access) (s : State) : Prop where
  held : s.hosted.held = some (a, .deciding)
  unclaimed : Unclaimed s.hosted

/-- The access is held for the array, and its one request is made (R71, R134). -/
theorem Deciding.holdForArray {a : Access} {k : Hold} (r : Request) (h : Deciding a s) (hk : k.forArray = true)
    (hstays : s.hosted.stays a k) : SoundHost (postRequest .host r (setHold k s)).hosted := by
  have hset := hosted_setHold s k h.held
  have hport : (setHold k s).port = s.port := (Prod.mk.inj (claims_setHold s k)).1
  have hout : hostOutstanding (s.port.post .host r) = 1 := hostOutstanding_post_host r h.unclaimed.array
  have hview : (postRequest .host r (setHold k s)).hosted
      = { s.hosted with held := some (a, k), outstanding := 1 } := by
    change { (setHold k s).hosted with outstanding := hostOutstanding ((setHold k s).port.post .host r) } = _
    rw [hset, hport, hout]
  have hzero : (s.queue.filter (fun g => g.sync)).length = 0 := filter_sync_eq_zero.mpr h.unclaimed.waiters
  rw [hview]
  refine ⟨fun b j hj => ?_, ?_, ?_, h.unclaimed.bounded⟩
  · cases hj
    cases k with
    | plainRead | mergeRead d | passWrite => exact hstays
    | _ => cases hk
  · simp only [requestsOf, hk, Bool.toNat_true]
  · cases k with
    | plainRead | mergeRead d | passWrite => exact hzero
    | _ => cases hk

theorem Deciding.classifiedRead {addr : Addr} (c : Class) (h : Deciding (.read addr) s) :
    SoundHost (classifiedRead c addr s).hosted := by
  have hplain : SoundHost (holdForRead .plainRead addr s).hosted := h.holdForArray _ rfl ⟨addr, rfl⟩
  unfold Machine.classifiedRead
  split
  · exact h.unclaimed.completeRead _ rfl
  · exact h.unclaimed.completeRead _ rfl
  · split
    · unfold stagedRead
      split
      · exact h.unclaimed.completeRead _ (t := bump .forwardHits s) rfl
      · exact h.holdForArray _ rfl ⟨addr, rfl⟩
    · exact hplain
  · exact hplain
  · exact hplain
  · exact hplain

theorem Deciding.dropParity {a : Access} {t : State} (h : Deciding a s) (ht : t.claims = s.claims) :
    SoundHost (dropParity t).hosted := h.unclaimed.dropWrite .parity (t := setFlag .parity t) ht

/-- A staged write that neither breaks its domain nor is placed waits for space, and is examined (R44, R50, R53). -/
theorem Deciding.stagedWrite {d : Dom} {addr : Addr} {l : Lanes} {w : Word} {hdp : Option (BitVec 2)} (bad : Bool)
    (h : Deciding (.write addr l w hdp) s) (hg : SoundGroups s.groups) (hl : l.isEmpty = false)
    (hd : (s.domains.get d).enabled = true) : SoundHost (stagedWrite d addr l w bad s).hosted := by
  unfold Machine.stagedWrite
  split
  · exact h.dropParity (claims_breakDomain s d .parity)
  · split
    · exact h.unclaimed.dropWrite _ rfl
    · split
      · exact h.unclaimed.placeNow d addr l w
      · next hc =>
        obtain ⟨hcoalesce, _⟩ := not_or.mp hc
        refine Agrees.examine false ?_
        rw [hosted_setHold s (.storeSpace d) h.held]
        exact h.unclaimed.withHeld rfl
          ⟨(Domain.enabled_iff _).mp hd, addr, l, w, hdp, rfl, hl, hg.new_of_not_coalesces hcoalesce⟩

/-- A commit that finds no slot closes its domain, and is examined (R26, R28). -/
theorem Deciding.commitGroup {a : Access} {d : Dom} (tag : Word) (h : Deciding a s)
    (hd : (s.domains.get d).enabled = true) : SoundHost (commitGroup d tag s).hosted := by
  unfold Machine.commitGroup
  split
  · exact h.unclaimed.commitToBroken d rfl
  · next hbroken =>
    split
    · next hslot =>
      rw [hosted_tryBegin]
      exact Agrees.commitQueued d tag h.unclaimed h.held hslot
    · refine Agrees.examine false ?_
      rw [hosted_setHold (modDomain d _ s) (.queueSlot d tag) (a := a) (j := .deciding) h.held]
      have htake : takesWrites s d := by
        have hoff := (Domain.enabled_iff _).mp hd
        unfold takesWrites
        cases hx : (s.domains.get d).state <;> simp_all
      refine Unclaimed.withHeld (v := (modDomain d _ s).hosted) ⟨h.unclaimed.array, h.unclaimed.waiters,
        h.unclaimed.bounded⟩ rfl ⟨?_, ?_⟩
      · change ((modDomain d _ s).domains.get d).state = _ ∨ ((modDomain d _ s).domains.get d).state = _
        rw [modDomain_get_same]
        exact htake
      · change ((modDomain d _ s).domains.get d).closing = true
        rw [modDomain_get_same]

theorem Deciding.commitCellWrite {a : Access} {d : Dom} (l : Lanes) (w : Word) (bad : Bool) (h : Deciding a s)
    (hd : (s.domains.get d).enabled = true) : SoundHost (commitCellWrite d l w bad s).hosted := by
  unfold Machine.commitCellWrite
  split
  · refine h.unclaimed.dropWrite _ ?_
    split
    · exact claims_breakDomain s d .format
    · rfl
  · split
    · exact h.dropParity (claims_breakDomain s d .parity)
    · split
      · exact h.unclaimed.completeQuiet (claims_flowAfterRelease _ _)
      · exact h.commitGroup w hd

/-- A write that no cause drops is of a class that hands it on (R9, R10). -/
theorem Deciding.classifiedWrite {addr : Addr} {l : Lanes} {w : Word} {hdp : Option (BitVec 2)}
    (h : Deciding (.write addr l w hdp) s) (hg : SoundGroups s.groups) (hl : l.isEmpty = false) :
    SoundHost (classifiedWrite (classify s addr) addr l w hdp s).hosted := by
  unfold Machine.classifiedWrite
  split
  · exact h.unclaimed.dropWrite _ rfl
  · next hnone =>
    have dropped : ∀ c, c = .outside ∨ c = .reserved ∨ c = .deny → classDropCause s c ≠ none := by
      rintro c (rfl | rfl | rfl) <;> unfold classDropCause <;> split <;> simp <;> split <;> simp
    cases hc : classify s addr with
    | commitCell d => exact h.commitCellWrite l w _ (enabled_of_classify hc)
    | stage d => exact h.stagedWrite _ hg hl (enabled_of_not_dropped (hc ▸ hnone))
    | pass =>
      dsimp only
      unfold passWrite
      split
      · exact h.dropParity rfl
      · exact h.holdForArray _ rfl ⟨addr, l, w, hdp, rfl⟩
    | outside | reserved | deny => exact absurd (hc ▸ hnone) (dropped _ (by simp))

/-- An access that is presented goes on as its class decides, or ends. -/
theorem Deciding.presentAccess {a : Access} (h : Deciding a s) (hg : SoundGroups s.groups) :
    SoundHost (presentAccess a s).hosted := by
  cases a with
  | malformed => exact h.unclaimed.completeQuiet rfl
  | read addr => exact h.classifiedRead _
  | write addr l w hdp =>
    unfold Machine.presentAccess
    dsimp only
    split
    · exact h.unclaimed.completeQuiet rfl
    · next hl => exact h.classifiedWrite hg (Bool.eq_false_iff.mpr hl)

/-! ### Arrivals and releases -/

theorem Unclaimed.arrive (a : Access) (h : Unclaimed s.hosted) (hg : SoundGroups s.groups) :
    SoundHost (arrive a s).hosted := by
  unfold Machine.arrive
  split
  · next hrec => exact h.withHeld rfl hrec
  · exact Deciding.presentAccess (s := setHost _ s) ⟨rfl, ⟨h.array, h.waiters, h.bounded⟩⟩ hg

theorem Agrees.seeArrival (bus : HostBus) (h : SoundHost s.hosted) (hg : SoundGroups s.groups) :
    SoundHost (seeArrival bus s).hosted := by
  unfold Machine.seeArrival
  split
  · next hidle _ =>
    refine Unclaimed.arrive _ (h.unclaimed fun a k hk => ?_) hg
    rw [held_eq_none fun p hp => by rw [hidle] at hp; cases hp] at hk
    cases hk
  · split
    · exact h
    · exact h
  · exact h

theorem Agrees.seeReturnIdle (h : SoundHost s.hosted) : SoundHost (seeReturnIdle s).hosted := by
  have hidle : s.hosted.held = none → SoundHost (setHost .idle s).hosted := fun hh =>
    have hu := h.unclaimed fun a k hk => by rw [hh] at hk; cases hk
    Unclaimed.ended ⟨hu.array, hu.waiters, hu.bounded⟩ rfl
  unfold Machine.seeReturnIdle
  split
  · next hp => exact hidle (congrArg HostPort.held hp)
  · next hp => exact hidle (congrArg HostPort.held hp)
  · exact h
  · exact h

theorem hosted_seeStrobesEnd (s : State) : (seeStrobesEnd s).hosted = s.hosted := by
  unfold seeStrobesEnd
  split
  · next p hp => exact congrArg (fun x => { s.hosted with held := x }) (held_of_inProgress hp).symm
  all_goals rfl

/-- The engine leaves RECOVERING, or had left it: the access held through it is presented (R74). -/
theorem Agrees.endRecovery {e : EngineState} (h : SoundHost s.hosted) (hg : SoundGroups s.groups) :
    SoundHost (endRecovery e s).hosted := by
  have other : (∀ a, s.hosted.held ≠ some (a, .recovery)) → SoundHost (setEngine e s).hosted := fun hne => by
    refine ⟨fun a k hk => ?_, h.array, h.waiters, h.bounded⟩
    have hstays := h.held a k hk
    cases k with
    | recovery => exact absurd hk (hne a)
    | _ => exact hstays
  unfold Machine.endRecovery releaseHeld
  split
  · next p hp =>
    have hheld := held_of_inProgress (s := s) hp
    split
    · next hk =>
      rw [hk] at hheld
      have hu := h.unclaimed_of_held hheld rfl
      exact Deciding.presentAccess (s := setHost _ (setEngine e s)) ⟨rfl, ⟨hu.array, hu.waiters, hu.bounded⟩⟩ hg
    · next hk =>
      refine other fun a ha => ?_
      rw [hheld] at ha
      exact hk (Prod.mk.inj (Option.some.inj ha)).2
  · next hp =>
    refine other fun a ha => ?_
    obtain ⟨p, hp', _⟩ := held_eq_some ha
    exact hp p hp'

end HostAccesses

section Engine

variable {s : State}

/-! ### The engine's accesses -/

/-- The engine goes on, RECOVERING or not as before. -/
theorem Agrees.goOn {e : EngineState} (h : SoundHost s.hosted) (he : e.isRecovering = s.engine.state.isRecovering) :
    SoundHost (goOn e s).hosted := (hosted_goOn s he).symm ▸ h

theorem Agrees.enter {e : EngineState} (h : SoundHost s.hosted) (he : e.isRecovering = s.engine.state.isRecovering) :
    SoundHost (enter e s).hosted := h.examine_of_eq false (hosted_goOn s he)

theorem Agrees.retire (h : SoundHost s.hosted) (hrec : s.engine.state.isRecovering = false) :
    SoundHost (retire s).hosted := by
  unfold Machine.retire
  split
  · exact h
  · next g rest hq =>
    refine h.headLeaves _ hq ?_
    refine (hosted_modDomain (f := fun x => { x with appliedTag := g.tag }) (setEngine .idle { s with queue := rest }) rfl).trans ?_
    exact hosted_setEngine { s with queue := rest } hrec.symm

theorem Agrees.copyingDone (i w : Nat) (h : SoundHost s.hosted) (hrec : s.engine.state.isRecovering = false) :
    SoundHost (copyingDone i w s).hosted := by
  unfold Machine.copyingDone
  split
  · exact h.goOn hrec.symm
  · split
    · exact h.goOn hrec.symm
    · exact h.enter hrec.symm

theorem Agrees.markingDone (k : Nat) (h : SoundHost s.hosted) (hrec : s.engine.state.isRecovering = false) :
    SoundHost (markingDone k s).hosted := by
  unfold Machine.markingDone
  split
  · exact h.enter hrec.symm
  · split
    · exact h.goOn hrec.symm
    · exact h.goOn hrec.symm

theorem Agrees.homingDone (i : Nat) (h : SoundHost s.hosted) (hrec : s.engine.state.isRecovering = false) :
    SoundHost (homingDone i s).hosted := by
  unfold Machine.homingDone
  split
  · exact h.goOn hrec.symm
  · split
    · exact h.enter hrec.symm
    · exact h.retire hrec

/-! ### Recovery -/

theorem Agrees.failRecovery (c : BlockCause) (h : SoundHost s.hosted) (hg : SoundGroups s.groups) :
    SoundHost (failRecovery c s).hosted := Agrees.endRecovery (s := setFlag .recfail s) h hg

theorem Agrees.replayOn (hd : List Word) (rest : List JournalRecord) (h : SoundHost s.hosted)
    (hrec : s.engine.state.isRecovering = true) : SoundHost (replayOn hd rest s).hosted := by
  unfold Machine.replayOn
  split <;> exact h.goOn hrec.symm

theorem Agrees.headerRead (hd : List Word) (h : SoundHost s.hosted) (hg : SoundGroups s.groups)
    (hrec : s.engine.state.isRecovering = true) : SoundHost (headerRead hd s).hosted := by
  unfold Machine.headerRead
  split
  · exact h.goOn hrec.symm
  · split
    · exact h.goOn hrec.symm
    · exact h.failRecovery _ hg

theorem Agrees.recordRead (hd ws : List Word) (h : SoundHost s.hosted) (hg : SoundGroups s.groups)
    (hrec : s.engine.state.isRecovering = true) : SoundHost (recordRead hd ws s).hosted := by
  unfold Machine.recordRead
  split
  · exact h.goOn hrec.symm
  · split
    · exact h.replayOn _ _ hrec
    · exact h.failRecovery _ hg

theorem Agrees.recoveryDone (r : Recovery) (w : Word) (h : SoundHost s.hosted) (hg : SoundGroups s.groups)
    (hrec : s.engine.state.isRecovering = true) : SoundHost (recoveryDone r w s).hosted := by
  cases r with
  | marker =>
    unfold Machine.recoveryDone
    dsimp only
    split
    · exact h.headerRead _ hg hrec
    · exact h.endRecovery hg
  | header read => exact h.headerRead _ hg hrec
  | records hd read => exact h.recordRead hd _ hg hrec
  | replay hd rest => exact h.replayOn hd _ hrec
  | finish hd => exact Agrees.endRecovery (s := setFlag .recovered { s with engine := _ }) h hg

/-- Entry to RECOVERING takes nothing from the access in progress. -/
theorem Agrees.startRecovery (h : SoundHost s.hosted) : SoundHost (startRecovery s).hosted := by
  have hrec : SoundHost { s.hosted with recovering := true } :=
    ⟨fun a k hk => by
      have hstays := h.held a k hk
      cases k with
      | recovery => rfl
      | _ => exact hstays, h.array, h.waiters, h.bounded⟩
  exact (hosted_requestEngine _).symm ▸ hrec

/-! ### The ends of array accesses -/

theorem Agrees.engineAccessDone (w : Word) (h : SoundHost s.hosted) (hg : SoundGroups s.groups) :
    SoundHost (engineAccessDone w s).hosted := by
  unfold Machine.engineAccessDone
  split
  · next he => exact h.recoveryDone _ w hg (by rw [he]; rfl)
  · next he =>
    split
    · exact (hosted_setEngine s (by rw [he])).symm ▸ h
    · exact h
  · exact h
  · next he => exact h.copyingDone _ _ (by rw [he]; rfl)
  · next he => exact h.markingDone _ (by rw [he]; rfl)
  · next he => exact h.homingDone _ (by rw [he]; rfl)
  · next he => exact h.retire (by rw [he]; rfl)
  · exact h

theorem Agrees.fault (p : Phase) (i : Nat) (h : SoundHost s.hosted) (hrec : s.engine.state.isRecovering = false) :
    SoundHost (fault p i s).hosted := h.examine_of_eq false (hosted_setEngine (setFlag .fault s) hrec.symm)

theorem Agrees.engineTimedOut (h : SoundHost s.hosted) (hg : SoundGroups s.groups) :
    SoundHost (engineTimedOut s).hosted := by
  have h1 : SoundHost (setFlag .array { s with port := { s.port with arrsrc := .engine } }).hosted := h
  unfold Machine.engineTimedOut
  dsimp only
  split
  · exact h1.failRecovery .array hg
  · next he =>
    split
    · exact (hosted_setEngine (setFlag .recfail (setFlag .array { s with port := { s.port with arrsrc := .engine } }))
        (by rw [setFlag_engine, setFlag_engine, he])).symm ▸ h
    · exact (hosted_setEngine (setFlag .array { s with port := { s.port with arrsrc := .engine } })
        (by rw [setFlag_engine, he])).symm ▸ h
  · exact h1
  · next he => exact h1.fault _ _ (by rw [setFlag_engine, he]; rfl)
  · next he => exact h1.fault _ _ (by rw [setFlag_engine, he]; rfl)
  · next he => exact h1.fault _ _ (by rw [setFlag_engine, he]; rfl)
  · next he => exact h1.fault _ _ (by rw [setFlag_engine, he]; rfl)
  · exact h1

theorem waitersOf_of_forArray {a : Access} {k : Hold} (h : k.forArray = true) : waitersOf (some (a, k)) = 0 := by
  cases k <;> simp_all [waitersOf, Hold.forArray]

/-- An access that is held for the array, as its hold asks (R71, R81, R140). -/
def Progress.awaitsArray (p : Progress) : Prop :=
  p.hold = .passWrite ∨ ((p.hold = .plainRead ∨ ∃ d, p.hold = .mergeRead d) ∧ ∃ addr, p.access = .read addr)

/-- The host's array access is the one of the access in progress, which its end completes (R134). -/
theorem Agrees.hostAccessEnds {x : ArrayAccess} {m : List Host.Cell} (h : SoundHost s.hosted)
    (hx : s.port.access = some x) (hr : x.requester = .host) :
    Unclaimed { s with array := m, port := s.port.finish }.hosted
      ∧ ∃ p, s.host.port = .inProgress p ∧ p.awaitsArray := by
  have hfinish := hostOutstanding_finish_host hx hr
  have harray : hostOutstanding s.port = requestsOf s.hosted.held := h.array
  obtain ⟨a, k, hheld, hk⟩ : ∃ a k, s.hosted.held = some (a, k) ∧ k.forArray = true := by
    rcases hh : s.hosted.held with _ | ⟨a, k⟩
    · rw [hh] at harray
      exact absurd (hfinish.trans harray) (Nat.succ_ne_zero _)
    · refine ⟨a, k, rfl, ?_⟩
      cases hk : k.forArray with
      | true => rfl
      | false =>
        rw [hh, requestsOf, hk] at harray
        exact absurd (hfinish.trans harray) (Nat.succ_ne_zero _)
  have hwaiters := h.waiters
  rw [hheld] at hwaiters harray
  have hstays := h.held a k hheld
  obtain ⟨p, hp, rfl, rfl⟩ := held_eq_some hheld
  refine ⟨⟨?_, filter_sync_eq_zero.mp ?_, h.bounded⟩, p, hp, ?_⟩
  · rw [requestsOf, hk] at harray
    change hostOutstanding s.port.finish = 0
    rw [harray] at hfinish
    exact Nat.succ.inj hfinish
  · exact hwaiters.trans (waitersOf_of_forArray hk)
  · unfold Progress.awaitsArray
    cases hk' : p.hold <;> rw [hk'] at hk hstays
    case passWrite => exact .inl rfl
    case plainRead => exact .inr ⟨.inl rfl, hstays⟩
    case mergeRead d => exact .inr ⟨.inr ⟨d, rfl⟩, hstays⟩
    all_goals cases hk

/-- The host's array access has ended, and with it the access in progress. -/
theorem Unclaimed.hostAccessDone {p : Progress} (w : Word) (h : Unclaimed s.hosted) (hp : s.host.port = .inProgress p)
    (ha : p.awaitsArray) : SoundHost (hostAccessDone w s).hosted := by
  obtain hk | ⟨hk | ⟨d, hk⟩, addr, ha⟩ := ha
  · simp only [Machine.hostAccessDone, heldFor, hp, hk]
    exact h.completeQuiet rfl
  · simp only [Machine.hostAccessDone, heldFor, hostReadDone, hp, hk]
    exact h.completeRead w rfl
  · simp only [Machine.hostAccessDone, heldFor, hostReadDone, hp, hk, ha]
    refine h.completeRead _ ?_
    split <;> rfl

theorem Unclaimed.hostTimedOut {p : Progress} (h : Unclaimed s.hosted) (hp : s.host.port = .inProgress p)
    (ha : p.awaitsArray) : SoundHost (hostTimedOut s).hosted := by
  have h1 : Unclaimed (setFlag .array { s with port := { s.port with arrsrc := .host } }).hosted :=
    ⟨h.array, h.waiters, h.bounded⟩
  have hfor : heldFor (setFlag .array { s with port := { s.port with arrsrc := .host } }) = some p.hold := by
    simp only [heldFor, setFlag_host, hp]
  unfold Machine.hostTimedOut
  dsimp only
  rw [hfor]
  obtain hk | ⟨hk | ⟨d, hk⟩, _⟩ := ha <;> rw [hk]
  · exact h1.completeQuiet rfl
  · exact h1.completeRead _ rfl
  · exact h1.completeRead _ rfl

/-- The access of another requester has ended. -/
theorem hosted_finish {x : ArrayAccess} (m : List Host.Cell) (hx : s.port.access = some x) (hr : x.requester ≠ .host) :
    { s with array := m, port := s.port.finish }.hosted = s.hosted :=
  hosted_withPort { s with array := m } (hostOutstanding_finish hx hr)

theorem Agrees.accessComplete (ad : Option Word) (h : SoundHost s.hosted) (hg : SoundGroups s.groups) :
    SoundHost (accessComplete ad s).hosted := by
  unfold Machine.accessComplete
  split
  · exact h
  · next x hx =>
    dsimp only
    split
    · next hr =>
      obtain ⟨hu, p, hp, ha⟩ := h.hostAccessEnds hx hr
      exact hu.hostAccessDone _ hp ha
    · next hr =>
      refine Agrees.engineAccessDone (s := { s with array := _, port := s.port.finish }) _ ?_ hg
      rw [hosted_finish _ hx (by rw [hr]; nofun)]
      exact h
    · next hr =>
      change SoundHost ({ s with array := s.array, port := s.port.finish } : State).hosted
      rw [hosted_finish _ hx (by rw [hr]; nofun)]
      exact h

theorem Agrees.accessTimeout (left : Option Word) (h : SoundHost s.hosted) (hg : SoundGroups s.groups) :
    SoundHost (accessTimeout left s).hosted := by
  unfold Machine.accessTimeout
  split
  · exact h
  · next x hx =>
    split
    · dsimp only
      split
      · next hr =>
        obtain ⟨hu, p, hp, ha⟩ := h.hostAccessEnds hx hr
        exact hu.hostTimedOut hp ha
      · next hr =>
        refine Agrees.engineTimedOut (s := { s with array := _, port := s.port.finish }) ?_ hg
        rw [hosted_finish _ hx (by rw [hr]; nofun)]
        exact h
      · next hr =>
        change SoundHost ({ s with array := s.array, port := s.port.finish } : State).hosted
        rw [hosted_finish _ hx (by rw [hr]; nofun)]
        exact h
    · exact h

end Engine

end Sys2Proof.Machine
end

section
/-! PROOFS. The same for time and power and for the management writes; so every step keeps the Host Port, the array port and
the queue in agreement. -/

namespace Sys2Proof.Machine

section Time

variable {s t : State}

/-! ### Ticks and expiries -/

theorem hosted_tickHold (s : State) : (tickHold s).hosted = s.hosted := by
  unfold tickHold
  split
  · next p hp =>
    split
    · exact congrArg (fun x => { s.hosted with held := x }) (held_of_inProgress hp).symm
    · rfl
  · rfl

theorem hosted_tickArray (s : State) : (tickArray s).hosted = s.hosted := by
  unfold tickArray
  split
  · rfl
  · next a ha => exact hosted_withPort s (by simp only [hostOutstanding, ha])

theorem taking_tickAge (s : State) (d : Dom) : (tickAge s d).taking = (s.domains.get d).taking := by
  unfold tickAge
  dsimp only
  split <;> rfl

theorem hosted_tickCounts (s : State) : (tickCounts s).hosted = s.hosted := by
  have hticks : (tickArray (tickHold s)).hosted = s.hosted := (hosted_tickArray _).trans (hosted_tickHold s)
  have hdomains : (fun d => ((Four.ofFn (tickAge s)).get d).taking) = s.hosted.domains :=
    funext fun d => (congrArg Domain.taking (Four.get_ofFn _ d)).trans (taking_tickAge s d)
  change { (tickArray (tickHold s)).hosted with domains := fun d => ((Four.ofFn (tickAge s)).get d).taking } = s.hosted
  rw [hdomains, hticks]

/-- The commit that waits for its record ends, and no record waits for it any more (R30). -/
theorem Agrees.clearSync {a : Access} {d : Dom} (h : SoundHost s.hosted) (hk : s.hosted.held = some (a, .sync d)) :
    Unclaimed (clearSyncFlags s).hosted := by
  have harray := h.array
  rw [hk] at harray
  refine ⟨harray, fun g hg => ?_, (List.length_map (as := s.queue) _).trans_le h.bounded⟩
  obtain ⟨g', _, rfl⟩ := List.mem_map.mp hg
  rfl

theorem Agrees.holdExpiry (h : SoundHost s.hosted) : SoundHost (holdExpiry s).hosted := by
  unfold Machine.holdExpiry
  split
  · next p hp =>
    split
    · split
      · next d hk => exact (h.clearSync (hk ▸ held_of_inProgress hp)).completeQuiet rfl
      · exact h.loose.examine true
    · exact h
  · exact h

/-- An age expiry that is due is one of a domain that is not closing, so that no commit of the domain waits for a slot
(R28, R155). -/
theorem Agrees.ageExpiry (d : Dom) (h : SoundHost s.hosted) (hg : SoundGroups s.groups) :
    SoundHost (ageExpiry d s).hosted := by
  have h1 : (setFlag .age (modDomain d (fun x => { x with ageDue := false }) s)).hosted = s.hosted :=
    hosted_modDomain (f := fun x => { x with ageDue := false }) s rfl
  unfold Machine.ageExpiry
  split
  · next hdue =>
    dsimp only
    split
    · exact h1 ▸ h
    · split
      · next hslot => exact (Agrees.queueGroup_sound _ (h1 ▸ h) hslot).beginAndExamine
      · rw [hosted_modDomain (f := fun x => { x with autoPending := true }) _ rfl]
        exact h1 ▸ h
    · refine Agrees.examine false (Agrees.breakDomain .age (h1 ▸ h.loose) fun a tag hk => ?_)
      rw [h1] at hk
      obtain ⟨_, hclosing, _⟩ := h.held a _ hk
      have hopen := (hg.domain d).ageDue hdue
      exact absurd (hopen.2.2.1.symm.trans hclosing) nofun
  · exact h

theorem Agrees.expire (e : Expiry) (h : SoundHost s.hosted) (hg : SoundGroups s.groups) :
    SoundHost (expire s e).hosted := by
  cases e with
  | hold => exact h.holdExpiry
  | array left => exact h.accessTimeout left hg
  | age d => exact h.ageExpiry d hg

/-! ### Power -/

theorem held_breakAll (c : BreakCause) (s : State) : (breakAll c s).hosted.held = s.hosted.held := by
  simp only [breakAll, Ix4.all, List.foldl, held_breakIfOpen]

theorem engine_breakIfOpen (c : BreakCause) (s : State) (d : Dom) : (breakIfOpen c s d).engine = s.engine := by
  unfold breakIfOpen breakCore
  split
  · split <;> rfl
  · rfl

theorem recovering_breakAll (c : BreakCause) (s : State) :
    (breakAll c s).hosted.recovering = s.hosted.recovering := by
  simp only [State.hosted, breakAll, Ix4.all, List.foldl, engine_breakIfOpen]

/-- At entry to POWER_LOW an access that waits, or a commit that waits for its record, ends; any other goes on (R161). -/
theorem Agrees.endHeldByPower (h : SoundHost s.hosted) (ht : t.claims = s.claims)
    (hheld : t.hosted.held = s.hosted.held) (hrec : t.hosted.recovering = s.hosted.recovering) :
    SoundHost (endHeldByPower t).hosted := by
  obtain ⟨hport, hqueue⟩ := Prod.mk.inj ht
  have goes : (∀ a k, s.hosted.held = some (a, k) → t.hosted.stays a k) → SoundHost t.hosted := fun hk =>
    ⟨fun a k hk' => hk a k (hheld ▸ hk'), by rw [hheld]; exact (congrArg hostOutstanding hport).trans h.array,
      by rw [hheld]; exact (congrArg (fun q => (q.filter (fun g : GroupRecord => g.sync)).length) hqueue).trans h.waiters,
      (congrArg List.length hqueue).trans_le h.bounded⟩
  have hfor : heldFor t = s.hosted.held.map Prod.snd := by rw [heldFor_eq, hheld]
  unfold Machine.endHeldByPower
  rw [hfor]
  rcases hh : s.hosted.held with _ | ⟨a, k⟩
  · exact goes fun a k hk => nomatch hh.symm.trans hk
  · have hstays := h.held a k hh
    have goesAs : t.hosted.stays a k → SoundHost t.hosted := fun hk => goes fun b j hj => by
      cases hh.symm.trans hj
      exact hk
    cases k with
    | storeSpace d => exact (h.unclaimed_of_held hh rfl).dropWrite _ ht
    | queueSlot d tag => exact (h.unclaimed_of_held hh rfl).dropWrite _ ht
    | sync d =>
      refine (h.clearSync hh).completeQuiet ?_
      unfold State.claims clearSyncFlags
      exact Prod.ext hport (congrArg (List.map _) hqueue)
    | recovery => exact goesAs (hrec.trans hstays)
    | deciding => exact hstays.elim
    | plainRead | mergeRead | passWrite => exact goesAs hstays

/-- The breaks of POWER_LOW take nothing from the access in progress, the requests and the queue. -/
theorem Agrees.powerBreaks (n : Nat) (h : SoundHost s.hosted) (ht : t.claims = s.claims)
    (hheld : t.hosted.held = s.hosted.held) (hrec : t.hosted.recovering = s.hosted.recovering) :
    SoundHost (Machine.endHeldByPower (Machine.flowAfterRelease n (Machine.breakAll .power t))).hosted := by
  refine h.endHeldByPower ?_ ?_ ?_
  · rw [claims_flowAfterRelease, claims_breakAll, ht]
  · rw [hosted_flowAfterRelease, held_breakAll, hheld]
  · rw [hosted_flowAfterRelease, recovering_breakAll, hrec]

theorem Agrees.powerEntry (h : SoundHost s.hosted) : SoundHost (powerEntry s).hosted :=
  h.powerBreaks _ rfl rfl rfl

/-- What an access may go on as in POWER_LOW it may go on as in NORMAL. -/
theorem Agrees.powerNormal {v : Hosted} (h : SoundHost v) : SoundHost { v with low := false } :=
  ⟨fun a k hk => by
    have hstays := h.held a k hk
    cases k with
    | storeSpace d =>
      obtain ⟨htake, hflow, _, hnew⟩ := hstays
      exact ⟨htake, hflow, rfl, hnew⟩
    | queueSlot d tag =>
      obtain ⟨htake, hclosing, hlen, _⟩ := hstays
      exact ⟨htake, hclosing, hlen, rfl⟩
    | _ => exact hstays, h.array, h.waiters, h.bounded⟩

theorem Agrees.samplePwarn (low : Bool) (h : SoundHost s.hosted) : SoundHost (samplePwarn low s).hosted := by
  have h1 : SoundHost { s with power := { s.power with last := low, previous := s.power.last } }.hosted := h
  unfold Machine.samplePwarn
  dsimp only
  split
  · split
    · exact Agrees.beginAndExamine (s := setFlag .powerok _) h1.powerNormal
    · exact h1
  · split
    · exact h1.powerEntry
    · exact h1

end Time

end Sys2Proof.Machine
end

section
/-! PROOFS. RESUMELVL stays in its range (R49), so that a domain that an access waits for is not disabled. -/

namespace Sys2Proof.Machine

/-- RESUMELVL is in its range (R49). -/
def ResumeInRange (s : State) : Prop := s.store.resumelvl.toNat ≤ 511

namespace ResumeInRange

variable {s t : State}

theorem same (h : ResumeInRange s) (hs : sameSettings s t) : ResumeInRange t := by
  obtain ⟨_, _, _, _, _, _, _, _, _, hresume, _⟩ := hs
  unfold ResumeInRange
  rw [hresume]
  exact h

theorem seeArrival (bus : HostBus) (h : ResumeInRange s) : ResumeInRange (seeArrival bus s) := by
  unfold Machine.seeArrival
  split
  · exact h.same (sameSettings_arrive _ (sameSettings_refl s))
  · split <;> exact h
  · exact h

theorem seeReturnIdle (h : ResumeInRange s) : ResumeInRange (seeReturnIdle s) := by
  unfold Machine.seeReturnIdle
  split <;> exact h

theorem seeStrobesEnd (h : ResumeInRange s) : ResumeInRange (seeStrobesEnd s) := by
  unfold Machine.seeStrobesEnd
  split <;> exact h

theorem accessComplete (ad : Option Word) (h : ResumeInRange s) : ResumeInRange (accessComplete ad s) := by
  unfold Machine.accessComplete
  split
  · exact h
  · dsimp only
    split
    · exact ResumeInRange.same (s := { s with array := _, port := s.port.finish }) h
        (sameSettings_hostAccessDone _ (sameSettings_refl _))
    · exact ResumeInRange.same (s := { s with array := _, port := s.port.finish }) h
        (sameSettings_engineAccessDone _ (sameSettings_refl _))
    · exact h

theorem accessTimeout (left : Option Word) (h : ResumeInRange s) : ResumeInRange (accessTimeout left s) := by
  unfold Machine.accessTimeout
  split
  · exact h
  · split
    · dsimp only
      split
      · exact ResumeInRange.same (s := { s with array := _, port := s.port.finish }) h
          (sameSettings_hostTimedOut (sameSettings_refl _))
      · exact ResumeInRange.same (s := { s with array := _, port := s.port.finish }) h
          (sameSettings_engineTimedOut (sameSettings_refl _))
      · exact h
    · exact h

theorem settle (before : State) (h : ResumeInRange s) : ResumeInRange (settle before s) :=
  h.same (sameSettings_settle before (sameSettings_refl s))

theorem takeExpiry (e : Expiry) (h : ResumeInRange s) : ResumeInRange (takeExpiry s e) := by
  refine settle s ?_
  cases e with
  | hold => exact h.same (sameSettings_holdExpiry (sameSettings_refl s))
  | array left => exact h.accessTimeout left
  | age d => exact h.same (sameSettings_ageExpiry d (sameSettings_refl s))

theorem powerEntry (h : ResumeInRange s) : ResumeInRange (powerEntry s) :=
  ResumeInRange.same (s := setFlag .power { s with power := { s.power with low := true } }) h
    (sameSettings_endHeldByPower (sameSettings_flowAfterRelease _ (sameSettings_breakAll .power (sameSettings_refl _))))

theorem samplePwarn (low : Bool) (h : ResumeInRange s) : ResumeInRange (samplePwarn low s) := by
  have hp : ∀ p, ResumeInRange { s with power := p } := fun _ => h
  unfold Machine.samplePwarn
  dsimp only
  split
  · split
    · exact ResumeInRange.same (s := setFlag .powerok { s with power := _ }) h
        (sameSettings_beginAndExamine (sameSettings_refl _))
    · exact hp _
  · split
    · exact (hp _).powerEntry
    · exact hp _

theorem tickStep (low : Bool) (early : List Expiry) (h : ResumeInRange s) : ResumeInRange (tickStep low early s) := by
  have hcounts : ResumeInRange (tickCounts s) := by
    unfold ResumeInRange
    rw [show (tickCounts s).store = s.store from congrArg Stored.store (stored_tickCounts s)]
    exact h
  have hfold : ResumeInRange (early.foldl Machine.takeExpiry (tickCounts s)) :=
    List.foldlRecOn early _ hcounts fun _ h e _ => h.takeExpiry e
  exact (hfold.samplePwarn low).settle _

theorem takeEvent (e : Event) (h : ResumeInRange s) : ResumeInRange (takeEvent s e) := by
  cases e with
  | hostArrival bus => exact h.seeArrival bus
  | hostReturnIdle => exact h.seeReturnIdle
  | hostStrobesEndEarly => exact h.seeStrobesEnd
  | holdExpiry => exact h.takeExpiry .hold
  | arrayComplete ad => exact (h.accessComplete ad).settle s
  | arrayTimeout left => exact h.takeExpiry (.array left)
  | tick low early => exact h.tickStep low early
  | ageExpiry d => exact h.takeExpiry (.age d)

theorem ecmdWrite (code : Word) (h : ResumeInRange s) : ResumeInRange (ecmdWrite code s).2 := by
  have same : ∀ {t}, sameSettings s t → ResumeInRange t := h.same
  unfold Machine.ecmdWrite
  split
  · exact h
  · unfold holdOffCmd
    exact keep_ite (ResumeInRange.same (s := { s with engine := _ }) h
      (sameSettings_beginAndExamine (sameSettings_refl _))) h
  · unfold retryCmd
    split
    · exact same (sameSettings_enter _ (sameSettings_refl s))
    · exact h
  · unfold abandonHeadCmd
    split
    · exact same (sameSettings_abandonHead (sameSettings_refl s))
    · exact h
  · unfold stageClearCmd
    split
    · exact h
    · exact h
    all_goals exact same (sameSettings_stageClear (sameSettings_refl s))
  · unfold recoverRetryCmd
    split
    · exact keep_ite h (same (sameSettings_startRecovery (sameSettings_refl s)))
    · exact h
  · unfold journalDiscardCmd
    split
    · exact keep_ite h (same (sameSettings_goOn _ (sameSettings_refl s)))
    · exact h
  · exact h

theorem examine_flowRetest (h : ResumeInRange t) : ResumeInRange (examine false (flowRetest t)) :=
  h.same (sameSettings_examine false (sameSettings_flowRetest (sameSettings_refl t)))

theorem resumelvlWrite (data : Word) (h : ResumeInRange s) : ResumeInRange (resumelvlWrite data s).2 := by
  unfold Machine.resumelvlWrite
  split
  · exact h
  · next hr =>
    obtain ⟨_, hr⟩ := not_or.mp hr
    obtain ⟨hle, _⟩ := not_or.mp hr
    exact examine_flowRetest (t := { s with store := { s.store with resumelvl := data } }) (Nat.le_of_not_lt hle)

theorem writeReg (r : Reg) (data : Word) (h : ResumeInRange s) : ResumeInRange (writeReg r data s).2 := by
  have stored {u : State} (hu : u.stored = s.stored) : ResumeInRange u := by
    unfold ResumeInRange
    rw [show u.store = s.store from congrArg Stored.store hu]
    exact h
  cases r with
  | ecmd => exact h.ecmdWrite data
  | stalllvl => exact keep_ite h (examine_flowRetest (t := { s with store := { s.store with stalllvl := data } }) h)
  | resumelvl => exact h.resumelvlWrite data
  | holdlim | arrto | starve | agechain | hset | agerld => exact keep_ite h h
  | jaddr | ceil => exact keep_ite h (keep_ite h h)
  | hact => exact stored (stored_hactWrite s data)
  | defact => exact stored (stored_defactWrite s data)
  | winbase i => exact stored (stored_winbaseWrite s i data)
  | winlim i => exact stored (stored_windowWrite s i _)
  | cchi d => exact keep_ite h (keep_ite h (keep_ite h h))
  | dctl d =>
    obtain e | ⟨act, e | ⟨_, e⟩ | ⟨_, e⟩⟩ := dctlWrite_cases d data s <;> exact (congrArg ResumeInRange e).mpr h
  | _ => exact h

theorem keptByCourses : KeptByCourses ResumeInRange where
  mgmt _ _ h := h
  pending _ _ h := h
  event _ e h := h.takeEvent e
  settle before _ h := h.settle before
  reset st held array pending :=
    ResumeInRange.same (s := State.cold st held array pending) (show 48 ≤ 511 by decide)
      (sameSettings_requestEngine (sameSettings_refl _))
  writeReg _ r data h := h.writeReg r data

end ResumeInRange

end Sys2Proof.Machine
end

section
/-! PROOFS. The management writes keep the Host Port, the array port and the queue in agreement: the thresholds and ECMD end
in an examination; a domain is enabled or disabled only where no access waits for it. -/

namespace Sys2Proof.Machine

section Writes

variable {s t : State}

/-! ### Commands -/

theorem Agrees.abandonHead (h : SoundHost s.hosted) (hrec : s.engine.state.isRecovering = false) :
    SoundHost (abandonHead s).hosted := by
  unfold Machine.abandonHead
  split
  · exact h
  · next g rest hq => exact h.headLeaves _ hq (hosted_setEngine { s with queue := rest } hrec.symm)

/-- STAGE_CLEAR breaks the open domains, and a commit that waits for a slot is one to BROKEN (R110). -/
theorem Agrees.clearBreaks (h : SoundHost s.hosted) : LooseHost (consumeHeldCommit (Machine.breakAll .clear s)).hosted := by
  have hfor : heldFor (Machine.breakAll .clear s) = s.hosted.held.map Prod.snd := by rw [heldFor_eq, held_breakAll]
  unfold consumeHeldCommit
  rw [hfor]
  split
  · next d tag hk =>
    obtain ⟨⟨a, k⟩, hheld, rfl⟩ := Option.map_eq_some_iff.mp hk
    exact (h.unclaimed_of_held hheld rfl).commitToBroken d (claims_breakAll s .clear)
  · next hk =>
    refine h.loose.breakAll .clear fun a d tag hheld => hk d tag ?_
    rw [hheld]
    rfl

theorem Agrees.stageClear (h : SoundHost s.hosted) : SoundHost (stageClear s).hosted := by
  have hqueue : (consumeHeldCommit (Machine.breakAll .clear s)).queue = s.queue := by
    rw [queue_consumeHeldCommit, queue_breakAll]
  have hperm : s.queue.Perm (discardedRecords s ++ keptRecords s) := by
    unfold discardedRecords keptRecords
    split
    · refine List.Perm.trans ?_ List.perm_append_comm
      rw [List.take_append_drop]
    · rw [List.append_nil]
  exact ((h.clearBreaks.leave (t := { consumeHeldCommit (Machine.breakAll .clear s) with queue := keptRecords s })
    (hqueue.symm ▸ hperm) rfl).flowAfterRelease _).examine false

theorem Agrees.ecmdWrite (code : Word) (h : SoundHost s.hosted) : SoundHost (ecmdWrite code s).2.hosted := by
  have keep {c : Prop} [Decidable c] {a b : Status × State} (ha : SoundHost a.2.hosted)
      (hb : SoundHost b.2.hosted) : SoundHost (if c then a else b).2.hosted :=
    keep_ite (P := fun t => SoundHost t.hosted) ha hb
  unfold Machine.ecmdWrite
  split
  · exact h
  · unfold holdOffCmd
    exact keep (Agrees.beginAndExamine (s := { s with engine := { s.engine with hold := false } }) h) h
  · unfold retryCmd
    split
    · next p i he => exact h.enter (by rw [he]; cases p <;> rfl)
    · exact h
  · unfold abandonHeadCmd
    split
    · next he => exact h.abandonHead (by rw [he]; rfl)
    · exact h
  · unfold stageClearCmd
    split
    · exact h
    · exact h
    all_goals exact h.stageClear
  · unfold recoverRetryCmd
    split
    · exact keep h h.startRecovery
    · exact h
  · unfold journalDiscardCmd
    split
    · next he => exact keep h (h.goOn (by rw [he]; rfl))
    · exact h
  · exact h

/-! ### Domains -/

/-- A domain that no access waits for changes. -/
theorem Agrees.modDomain {d : Dom} (f : Domain → Domain) (h : SoundHost s.hosted)
    (hd : ∀ a k, s.hosted.held = some (a, k) → k ≠ .storeSpace d ∧ ∀ tag, k ≠ .queueSlot d tag) :
    SoundHost (modDomain d f s).hosted := by
  rw [Machine.modDomain, hosted_set]
  refine ⟨fun a k hk => ?_, h.array, h.waiters, h.bounded⟩
  have hstays := h.held a k hk
  obtain ⟨hspace, hslot⟩ := hd a k hk
  cases k with
  | storeSpace e =>
    have he : e ≠ d := fun he => hspace (he ▸ rfl)
    simpa [Hosted.stays, Hosted.takes, Hosted.newWrite, he] using hstays
  | queueSlot e tag =>
    have he : e ≠ d := fun he => hslot tag (he ▸ rfl)
    simpa [Hosted.stays, Hosted.takes, he] using hstays
  | _ => exact hstays

/-- No access waits in quiescence: a throttled store holds an entry, and a commit waits at a full queue (R16, R48, R49). -/
theorem Agrees.not_waits_of_quiescent {d : Dom} (h : SoundHost s.hosted) (hst : SoundStore s.stored)
    (hr : ResumeInRange s) (hq : quiescent s = true) {a : Access} {k : Hold} (hk : s.hosted.held = some (a, k)) :
    k ≠ .storeSpace d ∧ ∀ tag, k ≠ .queueSlot d tag := by
  simp only [quiescent, Bool.and_eq_true, beq_iff_eq, List.isEmpty_iff] at hq
  obtain ⟨hused, hempty⟩ := hq
  refine ⟨?_, ?_⟩
  · rintro rfl
    obtain ⟨_, hflow, _⟩ := h.held a _ hk
    have hthr : 512 - usedEntries s < s.store.resumelvl.toNat := hst.throttled hflow
    have hr : s.store.resumelvl.toNat ≤ 511 := hr
    omega
  · rintro tag rfl
    obtain ⟨_, _, hlen, _⟩ := h.held a _ hk
    change s.queue.length = 32 at hlen
    rw [hempty] at hlen
    cases hlen

/-- A DCTL[d] write that does more than set options finds quiescence (R15, R18). -/
theorem dctlWrite_quiescent (d : Dom) (data : Word) (s : State) :
    (dctlWrite d data s).2 = s
      ∨ ∃ f, (dctlWrite d data s).2 = modDomain d f s ∧ (quiescent s = true ∨ ∀ x, (f x).taking = x.taking) := by
  unfold Machine.dctlWrite
  split
  · exact .inl rfl
  · next act _ =>
    dsimp only
    split
    · exact .inr ⟨Domain.withOptions data act, rfl, .inr fun _ => rfl⟩
    · split
      · exact .inl rfl
      · split
        · exact .inl rfl
        · split
          · exact .inl rfl
          · next hq =>
            exact .inr ⟨fun y => if data.getLsbD 0 then (y.withOptions data act).enable
              else (y.withOptions data act).disable, rfl, .inl (by simpa using hq)⟩

theorem Agrees.dctlWrite (d : Dom) (data : Word) (h : SoundHost s.hosted) (hst : SoundStore s.stored)
    (hr : ResumeInRange s) : SoundHost (dctlWrite d data s).2.hosted := by
  obtain e | ⟨f, e, hq | hf⟩ := dctlWrite_quiescent d data s <;> rw [e]
  · exact h
  · exact h.modDomain f fun a k hk => h.not_waits_of_quiescent hst hr hq hk
  · rw [hosted_modDomain s (hf _)]
    exact h

/-! ### Registers -/

/-- A threshold write, with its flow test and its examination (R49). -/
theorem Agrees.thresholdWrite (v : Word) (w : Word) (h : SoundHost s.hosted) :
    SoundHost (Machine.examine false (flowRetest { s with store := ⟨s.store.flow, v, w⟩ })).hosted := by
  refine Agrees.examine false ?_
  rw [hosted_flowRetest]
  exact h.loose.withFlow _

theorem hosted_windowWrite (i : Fin 16) (w : Window) (s : State) : (windowWrite i w s).2.hosted = s.hosted := by
  unfold windowWrite
  repeat' split
  all_goals rfl

theorem hosted_winbaseWrite (i : Fin 16) (data : Word) (s : State) :
    (winbaseWrite i data s).2.hosted = s.hosted := by
  unfold winbaseWrite
  split
  · rfl
  · exact hosted_windowWrite i _ s

theorem hosted_hactWrite (data : Word) (s : State) : (hactWrite data s).2.hosted = s.hosted := by
  unfold hactWrite
  repeat' split
  all_goals rfl

theorem hosted_defactWrite (data : Word) (s : State) : (defactWrite data s).2.hosted = s.hosted := by
  unfold defactWrite
  repeat' split
  all_goals rfl

theorem Agrees.jaddrWrite (data : Word) (h : SoundHost s.hosted) : SoundHost (jaddrWrite data s).2.hosted := by
  unfold Machine.jaddrWrite
  split
  · exact h
  · split
    · exact h
    · exact (hosted_postRequest { s with diag := _ } (who := .mgmt) _ nofun).symm ▸ h

theorem Agrees.writeReg (r : Reg) (data : Word) (h : SoundHost s.hosted) (hst : SoundStore s.stored)
    (hr : ResumeInRange s) : SoundHost (writeReg r data s).2.hosted := by
  have keep {c : Prop} [Decidable c] {a b : Status × State} (ha : SoundHost a.2.hosted)
      (hb : SoundHost b.2.hosted) : SoundHost (if c then a else b).2.hosted :=
    keep_ite (P := fun t => SoundHost t.hosted) ha hb
  have setting {d : Dom} {f : Domain → Domain} (hf : ∀ x, (f x).taking = x.taking) :
      SoundHost (Machine.modDomain d f s).hosted := (hosted_modDomain s (hf _)).symm ▸ h
  cases r with
  | ecmd => exact h.ecmdWrite data
  | stalllvl => exact keep h (h.thresholdWrite _ _)
  | resumelvl => exact keep h (h.thresholdWrite _ _)
  | holdlim | arrto | starve | agechain | hset => exact keep h h
  | hact => exact (hosted_hactWrite data s).symm ▸ h
  | defact => exact (hosted_defactWrite data s).symm ▸ h
  | jaddr => exact h.jaddrWrite data
  | dctl d => exact h.dctlWrite d data hst hr
  | ceil d => exact keep h (keep h (setting fun _ => rfl))
  | cclo d => exact setting fun _ => rfl
  | cchi d => exact keep h (keep h (keep h (setting fun _ => rfl)))
  | agerld d => exact keep h (setting fun _ => rfl)
  | winbase i => exact (hosted_winbaseWrite i data s).symm ▸ h
  | winlim i => exact (hosted_windowWrite i _ s).symm ▸ h
  | _ => exact h

end Writes

end Sys2Proof.Machine
end

section
/-! PROOFS. Every event, every management write and a reset keep the Host Port, the array port and the queue in agreement:
what completes an access is indifferent to levels asserted again, which the return to IDLE then takes (R65). -/

namespace Sys2Proof.Machine

/-- Levels stand asserted again only under an access whose strobes ended early (R65). -/
def AgainStands (s : State) : Prop :=
  ∀ bus, s.host.again = some bus → ∃ p, s.host.port = .inProgress p ∧ p.ended = true

/-- What a command keeps of the Host Port, with the groups that its operations look at. -/
structure HostKept (s : State) : Prop where
  groups : SoundGroups s.groups
  host : SoundHost s.hosted
  again : AgainStands s

section Again

variable {s t : State}

theorem againStands_of_none (h : s.host.again = none) : AgainStands s := fun _ hb => nomatch h.symm.trans hb

/-- Where no access is in progress no levels stand asserted again. -/
theorem AgainStands.eq_none (h : AgainStands s) (hp : ∀ p, s.host.port ≠ .inProgress p) : s.host.again = none := by
  cases ha : s.host.again with
  | none => rfl
  | some bus =>
    obtain ⟨p, hp', _⟩ := h bus ha
    exact absurd hp' (hp p)

theorem again_arrive (a : Access) (s : State) : (arrive a s).host.again = s.host.again := by
  have hpresent : indifferent (presentAccess a) := fun early again s => presentAccess_seenAs early again s a
  unfold arrive
  split
  · rfl
  · exact hpresent.again _

/-- A presentation at a Host Port in IDLE leaves no levels asserted again. -/
theorem againStands_seeArrival_idle (bus : HostBus) (hidle : s.host.port = .idle) (ha : s.host.again = none) :
    AgainStands (seeArrival bus s) := by
  refine againStands_of_none ?_
  cases hc : capture s.straps.hpar bus with
  | none => rw [seeArrival_noStrobe hc, ha]
  | some a => rw [seeArrival_idle hidle hc, again_arrive, ha]

theorem AgainStands.seeArrival (bus : HostBus) (h : AgainStands s) : AgainStands (seeArrival bus s) := by
  cases hp : s.host.port with
  | idle => exact againStands_seeArrival_idle bus hp (h.eq_none fun p => by rw [hp]; nofun)
  | inProgress p =>
    unfold Machine.seeArrival
    rw [hp]
    split
    · next hi _ => exact nomatch hi
    · next q _ hq _ =>
      cases hq
      split
      · next he => exact fun _ _ => ⟨p, hp, he⟩
      · exact h
    · exact h
  | _ =>
    unfold Machine.seeArrival
    rw [hp]
    exact h

theorem AgainStands.seeReturnIdle (h : AgainStands s) : AgainStands (seeReturnIdle s) := by
  have idle : (∀ p, s.host.port ≠ .inProgress p) → AgainStands (setHost .idle s) := fun hp =>
    againStands_of_none (h.eq_none hp)
  unfold Machine.seeReturnIdle
  split
  · next hp => exact idle fun p => by rw [hp]; nofun
  · next hp => exact idle fun p => by rw [hp]; nofun
  · exact h
  · exact h

theorem AgainStands.seeStrobesEnd (h : AgainStands s) : AgainStands (seeStrobesEnd s) := by
  unfold Machine.seeStrobesEnd
  split
  · exact againStands_of_none rfl
  all_goals exact h

/-- An indifferent operation that leaves an access in progress leaves the levels asserted again under it. -/
theorem AgainStands.of_indifferent {f : State → State} (hf : indifferent f) (h : AgainStands s)
    (hport : ∀ p, s.host.port = .inProgress p → (f s).host.port ≠ .idle) : AgainStands (f s) := by
  intro bus ha
  obtain ⟨p, hp, he⟩ := h bus ((hf.again s).symm.trans ha)
  obtain hq | hidle := hf.ended hp he
  · exact hq
  · exact absurd hidle (hport p hp)

/-! ### The return to IDLE -/

/-- After an indifferent operation the return to IDLE takes the levels asserted again (R65). -/
theorem HostKept.settle {f : State → State} (h : HostKept s) (hf : indifferent f) (hg : SoundGroups (f s).groups)
    (hh : SoundHost (f s).hosted) : HostKept (settle s (f s)) := by
  cases ha : (f s).host.again with
  | none =>
    rw [settle_of_noneAgain s ha]
    exact ⟨hg, hh, againStands_of_none ha⟩
  | some bus =>
    obtain ⟨p, hp, he⟩ := h.again bus ((hf.again s).symm.trans ha)
    obtain ⟨q, hq, hqe⟩ | hidle := hf.ended hp he
    · rw [settle_of_not_idle s (by rw [hq]; nofun)]
      exact ⟨hg, hh, fun _ _ => ⟨q, hq, hqe⟩⟩
    · have hg' : SoundGroups (withAgain none (f s)).groups := hg
      have hh' : SoundHost (withAgain none (f s)).hosted := hh
      rw [settle_returned hp hidle ha]
      exact ⟨hg'.seeArrival bus, hh'.seeArrival bus hg', againStands_seeArrival_idle bus hidle rfl⟩

/-! ### Events -/

theorem SoundGroups.expire (e : Expiry) (h : SoundGroups s.groups) : SoundGroups (expire s e).groups := by
  cases e with
  | hold => exact h.holdExpiry
  | array left => exact h.accessTimeout left
  | age d => exact h.ageExpiry d

theorem HostKept.takeExpiry (e : Expiry) (h : HostKept s) : HostKept (takeExpiry s e) :=
  h.settle (indifferent_expire e) (h.groups.expire e) (h.host.expire e h.groups)

theorem HostKept.takeArdy (ad : Option Word) (h : HostKept s) : HostKept (takeArdy ad s) :=
  h.settle (indifferent_accessComplete ad) (h.groups.accessComplete ad) (h.host.accessComplete ad h.groups)

theorem HostKept.tickCounts (h : HostKept s) : HostKept (tickCounts s) := by
  refine ⟨h.groups.tickCounts, (hosted_tickCounts s).symm ▸ h.host,
    h.again.of_indifferent indifferent_tickCounts fun p hp => ?_⟩
  obtain ⟨q, hq⟩ := inProgress_tickCounts hp
  rw [hq]
  nofun

theorem HostKept.tickStep (low : Bool) (early : List Expiry) (h : HostKept s) : HostKept (tickStep low early s) := by
  have hfold : HostKept (early.foldl Machine.takeExpiry (Machine.tickCounts s)) :=
    List.foldlRecOn early _ h.tickCounts fun _ h e _ => h.takeExpiry e
  exact hfold.settle (indifferent_samplePwarn low) (hfold.groups.samplePwarn low) (hfold.host.samplePwarn low)

theorem HostKept.takeEvent (e : Event) (h : HostKept s) : HostKept (takeEvent s e) := by
  cases e with
  | hostArrival bus =>
    exact ⟨h.groups.seeArrival bus, h.host.seeArrival bus h.groups, h.again.seeArrival bus⟩
  | hostReturnIdle => exact ⟨h.groups.takeEvent .hostReturnIdle, h.host.seeReturnIdle, h.again.seeReturnIdle⟩
  | hostStrobesEndEarly =>
    exact ⟨h.groups.takeEvent .hostStrobesEndEarly, (hosted_seeStrobesEnd s).symm ▸ h.host, h.again.seeStrobesEnd⟩
  | holdExpiry => exact h.takeExpiry .hold
  | arrayComplete ad => exact h.takeArdy ad
  | arrayTimeout left => exact h.takeExpiry (.array left)
  | tick low early => exact h.tickStep low early
  | ageExpiry d => exact h.takeExpiry (.age d)

theorem HostKept.afterInside (inside : List Event) (h : HostKept s) : HostKept (afterInside inside s) :=
  List.foldlRecOn inside _ h fun _ h e _ => h.takeEvent e

/-! ### Frames and resets -/

theorem indifferent_writeFrame (out : Mso) (r : Reg) (data : Word) :
    indifferent fun s => endWriteFrame out (writeReg r data s) := by
  intro early again s
  dsimp only
  rw [writeReg_seenAs]
  simp only [endWriteFrame, seenAnswer, seenAs_mgmt, withMgmt_seenAs]

/-- A write frame is acted on, and the return to IDLE follows (R65, R170). -/
theorem HostKept.actWrite {effect : State → Status × State} (out : Mso) (he : writesRegister effect) (h : HostKept s)
    (hst : SoundStore s.stored) (hr : ResumeInRange s) : HostKept (actWrite out effect s) := by
  unfold Machine.actWrite
  obtain e | ⟨r, data, e⟩ := he s <;> rw [e]
  · have hnone : Machine.settle s (endWriteFrame out (.noreg, s)) = endWriteFrame out (.noreg, s) :=
      settle_of_same_port rfl
    rw [hnone]
    exact ⟨h.groups, h.host, h.again⟩
  · exact h.settle (indifferent_writeFrame out r data) (h.groups.writeReg r data) (h.host.writeReg r data hst hr)

theorem HostKept.sameBlocks (h : HostKept s) (hs : sameBlocks s t) : HostKept t := by
  have e : t = { s with mgmt := t.mgmt } := by
    cases s
    cases t
    obtain ⟨rfl, rfl, rfl, rfl, rfl, rfl, rfl, rfl, rfl, rfl, rfl, rfl, rfl, rfl⟩ := hs
    rfl
  rw [e]
  exact ⟨h.groups, h.host, h.again⟩

/-- After a reset the Host Port awaits the end of levels, nothing is requested for the host, and the queue is empty
(R189). -/
theorem hostKept_cold (st : Straps) (held : Bool) (array : List Host.Cell) (pending : List Instr) :
    HostKept (requestEngine (State.cold st held array pending)) := by
  refine ⟨SoundGroups.keptByCourses.reset st held array pending, ?_, againStands_of_none ?_⟩
  · rw [hosted_requestEngine]
    exact Unclaimed.ended ⟨rfl, nofun, Nat.zero_le _⟩ rfl
  · rw [host_requestEngine]
    rfl

theorem HostKept.course (h : HostKept s) (hst : SoundStore s.stored) (hr : ResumeInRange s) (hc : Course s t) :
    HostKept t := by
  cases hc with
  | event e => exact h.takeEvent e
  | reset st left held => exact hostKept_cold st held _ _
  | write word effect inside he =>
    have hin := h.afterInside inside
    unfold frameReturning
    dsimp only
    split
    · exact ⟨hin.groups, hin.host, hin.again⟩
    · exact hin.actWrite _ he (SoundStore.keptByCourses.afterInside inside hst)
        (ResumeInRange.keptByCourses.afterInside inside hr)
  | read index inside =>
    have hin := h.afterInside inside
    unfold indexReadFrame
    dsimp only
    split <;> exact ⟨hin.groups, hin.host, hin.again⟩
  | cut hs => exact h.sameBlocks hs

end Again

/-- Settles O59: an access waits only where its domain takes writes and the store or the queue has no room, and an
examination follows whatever makes room, breaks the domain or opens the store; the port and the queue hold its one request or
record; an end under levels asserted again is an arrival. -/
theorem stepsKeepHostSound : Obligations.StepsKeepHostSound := by
  intro s t hq hl hst hd hh h
  obtain ⟨hhost, hagain⟩ := (hostSound_iff hq).mp hh
  obtain ⟨_, _, hresume, _⟩ := hl
  have hkept : HostKept s := ⟨(domainsSound_iff s).mp hd, hhost, hagain⟩
  have ht : HostKept t := by
    unfold step at h
    split at h
    · cases h
      exact hkept
    · next c rest _ =>
      exact HostKept.course (s := { s with pending := rest }) ⟨hkept.groups, hkept.host, hkept.again⟩
        ((storeSound_iff s).mp hst) hresume (course_of_exec h)
  exact (hostSound_iff ht.host.bounded).mpr ⟨ht.host, ht.again⟩

end Sys2Proof.Machine
end

section
/-! PROOFS. The forwarding lookup, lane by lane; host reads that the array or the store answers. -/

namespace Sys2Proof.Machine

/-! ### One group of the lookup -/

/-- An entry holds a lane of its word. -/
abbrev Entry.holds (e : Entry) (lane1 : Bool) : Bool := if lane1 then e.lanes.lane1 else e.lanes.lane0

/-- What an entry holds in a lane. -/
abbrev Entry.lane (e : Entry) (lane1 : Bool) : Byte := if lane1 then e.data.lane1 else e.data.lane0

section Lookup

variable {es : List Entry} {e : Entry} {a : Addr} {lane1 : Bool} {b : Byte}

/-- A group covers a lane where the first entry at the address holds it (R79). -/
theorem groupLane_eq_bind (es : List Entry) (a : Addr) (lane1 : Bool) :
    groupLane es a lane1
      = (es.find? fun e => e.addr == a).bind fun e => if e.holds lane1 then some (e.lane lane1) else none := by
  unfold groupLane
  cases es.find? (fun e => e.addr == a) <;> cases lane1 <;> rfl

theorem mem_of_find?_addr (h : es.find? (fun e => e.addr == a) = some e) : e ∈ es ∧ e.addr = a := by
  have ha : (e.addr == a) = true := List.find?_some (p := fun f : Entry => f.addr == a) h
  exact ⟨List.mem_of_find?_eq_some h, eq_of_beq ha⟩

/-- With distinct addresses the search finds the one entry at the address (R43). -/
theorem find?_addr_of_mem (hd : addressesDistinct es) (he : e ∈ es) :
    es.find? (fun f => f.addr == e.addr) = some e := by
  have hs : (es.find? fun f => f.addr == e.addr).isSome = true := List.find?_isSome.mpr ⟨e, he, beq_self_eq_true _⟩
  obtain ⟨f, hf⟩ := Option.isSome_iff_exists.mp hs
  obtain ⟨hmem, haddr⟩ := mem_of_find?_addr hf
  rw [hf, List.inj_on_of_nodup_map hd hmem he haddr]

theorem groupLane_of_mem (hd : addressesDistinct es) (he : e ∈ es) (ha : e.addr = a) (hl : e.holds lane1 = true) :
    groupLane es a lane1 = some (e.lane lane1) := by
  subst ha
  rw [groupLane_eq_bind, find?_addr_of_mem hd he]
  exact if_pos hl

theorem groupLane_eq_none (h : ∀ e ∈ es, e.addr = a → e.holds lane1 = false) : groupLane es a lane1 = none := by
  rw [groupLane_eq_bind]
  cases hf : es.find? (fun e => e.addr == a) with
  | none => rfl
  | some e =>
    obtain ⟨hmem, haddr⟩ := mem_of_find?_addr hf
    exact if_neg (Bool.eq_false_iff.mp (h e hmem haddr))

theorem exists_mem_of_groupLane (h : groupLane es a lane1 = some b) : ∃ e ∈ es, e.addr = a := by
  rw [groupLane_eq_bind] at h
  obtain ⟨e, hf, _⟩ := Option.bind_eq_some_iff.mp h
  exact ⟨e, mem_of_find?_addr hf⟩

/-! ### The order of the groups -/

variable {s : State} {d : Dom}

theorem storeLane_of_open (h : groupLane (s.domains.get d).group a lane1 = some b) : storeLane s d a lane1 = some b := by
  rw [storeLane, lookupGroups, List.findSome?_cons, h]

/-- Past the open group, the newest queued group of the domain that covers the lane decides (R79). -/
theorem storeLane_of_queued {older newer : List GroupRecord} {g : GroupRecord}
    (hopen : groupLane (s.domains.get d).group a lane1 = none) (hq : s.queue = older ++ g :: newer) (hg : g.domain = d)
    (hnewer : ∀ n ∈ newer, n.domain = d → groupLane n.entries a lane1 = none)
    (h : groupLane g.entries a lane1 = some b) : storeLane s d a lane1 = some b := by
  have hskip : ((newer.filter fun n => n.domain == d).reverse.map fun n => n.entries).findSome?
      (fun es => groupLane es a lane1) = none := by
    refine List.findSome?_eq_none_iff.mpr fun es hes => ?_
    obtain ⟨n, hn, rfl⟩ := List.mem_map.mp hes
    obtain ⟨hmem, hdom⟩ := List.mem_filter.mp (List.mem_reverse.mp hn)
    exact hnewer n hmem (eq_of_beq hdom)
  have hgroups : lookupGroups s d = (s.domains.get d).group
      :: ((newer.filter fun n => n.domain == d).reverse.map (fun n => n.entries)
        ++ g.entries :: (older.filter fun n => n.domain == d).reverse.map fun n => n.entries) := by
    simp [lookupGroups, hq, hg]
  rw [storeLane, hgroups, List.findSome?_cons, hopen]
  dsimp only
  rw [List.findSome?_append, hskip, List.findSome?_cons, h]
  rfl

/-- Groups of other domains cover nothing for a domain (R79). -/
theorem exists_entry_of_storeLane (h : storeLane s d a lane1 = some b) :
    (∃ e ∈ (s.domains.get d).group, e.addr = a) ∨ ∃ g ∈ s.queue, g.domain = d ∧ ∃ e ∈ g.entries, e.addr = a := by
  obtain ⟨es, hes, hlane⟩ := List.exists_of_findSome?_eq_some h
  have hmem := exists_mem_of_groupLane hlane
  obtain rfl | hes := List.mem_cons.mp hes
  · exact .inl hmem
  · obtain ⟨g, hg, rfl⟩ := List.mem_map.mp hes
    obtain ⟨hq, hdom⟩ := List.mem_filter.mp (List.mem_reverse.mp hg)
    exact .inr ⟨g, hq, eq_of_beq hdom, hmem⟩

theorem bothLanes_eq_false (h : storeLane s d a false = none ∨ storeLane s d a true = none) :
    bothLanes s d a = false := by
  obtain h | h := h <;> simp [bothLanes, h]

theorem anyLane_eq_false_iff : anyLane s d a = false ↔ storeLane s d a true = none ∧ storeLane s d a false = none := by
  simp [anyLane]

end Lookup

section Reads

variable {s : State} {a : Addr}

/-! ### The arrival of a read -/

/-- The classes whose read needs the array, with the reason it is held for (R77, R78, R81). -/
theorem classifiedRead_eq_holdForRead {c : Class} {h : Hold}
    (hc : (h = .plainRead ∧ (c = .pass ∨ c = .deny ∨ (∃ d, c = .commitCell d)
        ∨ ∃ d, c = .stage d ∧ (s.domains.get d).state = .off))
      ∨ (∃ d, h = .mergeRead d ∧ c = .stage d ∧ (s.domains.get d).state ≠ .off
          ∧ (storeLane s d a false = none ∨ storeLane s d a true = none))) :
    classifiedRead c a s = holdForRead h a s := by
  obtain ⟨rfl, rfl | rfl | ⟨d, rfl⟩ | ⟨d, rfl, hoff⟩⟩ | ⟨d, rfl, rfl, hon, hlane⟩ := hc
  · rfl
  · rfl
  · rfl
  · have hen : (s.domains.get d).enabled = false := by simp [Domain.enabled, hoff]
    simp only [classifiedRead, hen, Bool.false_eq_true, if_false]
  · simp only [classifiedRead, (Domain.enabled_iff _).mpr hon, if_true, stagedRead, bothLanes_eq_false hlane,
      Bool.false_eq_true, if_false]

/-- A read that the store covers in both lanes is answered at the lookup (R80). -/
theorem classifiedRead_forwarded {d : Dom} {lo hi : Byte} (hon : (s.domains.get d).state ≠ .off)
    (hlo : storeLane s d a false = some lo) (hhi : storeLane s d a true = some hi) :
    classifiedRead (.stage d) a s = completeRead (hi ++ lo) (bump .forwardHits s) := by
  have hboth : bothLanes s d a = true := by simp [bothLanes, hlo, hhi]
  simp only [classifiedRead, (Domain.enabled_iff _).mpr hon, if_true, stagedRead, hboth, mergedWord, hlo, hhi,
    Option.getD_some, Word.ofLanes]

/-- A read arrives at a Host Port that decides it at once (R62). -/
theorem seeArrival_read {bus : HostBus} (hr : ready s) (hb : isRead bus) :
    seeArrival bus s
      = classifiedRead (classify s bus.ha) bus.ha (setHost (heldNow (.read bus.ha) .deciding) s) := by
  obtain ⟨hoe, hwe⟩ := hb
  exact seeArrival_ready hr (capture_read _ hwe hoe)

theorem holdForRead_heldNow (h k : Hold) (s : State) :
    holdForRead h a (setHost (heldNow (.read a) k) s) = { s with
      port := s.port.post .host (readRequest a)
      host := { s.host with port := heldNow (.read a) h } } := rfl

/-! ### The host's request at the array port -/

/-- At an idle port where the engine waits for nothing the host's access begins at once (R134, R135). -/
theorem Port.post_host_idle {p : Port} (r : Request) (hidle : p.access = none) (he : p.engineReq = none) :
    (p.post .host r).access = some ⟨.host, r, 0, false⟩ ∧ (p.post .host r).hostReq = none := by
  have hgrant : p.post .host r = (p.wait .host r).grantHost r := by
    simp [Port.post, Port.wait, Port.arbitrate, hidle, he]
  rw [hgrant]
  exact ⟨rfl, rfl⟩

/-- At a busy port the host's request waits (R134). -/
theorem Port.post_host_busy {p : Port} {b : ArrayAccess} (r : Request) (hbusy : p.access = some b) :
    p.post .host r = { p with hostReq := some r } := by
  simp [Port.post, Port.wait, hbusy]

/-! ### The completion of the host's array read -/

theorem takeArdy_of_noneAgain (ad : Option Word) (h : noneAgain s) : takeArdy ad s = accessComplete ad s :=
  settle_of_noneAgain s ((indifferent_accessComplete ad).noneAgain h)

/-- ARDY ends a read of the host: the port arbitrates, and the Host Port takes the word (R133, R135). -/
theorem accessComplete_hostRead {n : Nat} {due : Bool} (ad : Option Word)
    (h : s.port.access = some ⟨.host, readRequest a, n, due⟩) :
    accessComplete ad s = hostAccessDone (ad.getD (Memory.word s.array a)) { s with port := s.port.finish } := by
  simp only [accessComplete, h, readRequest]

variable {p : Progress}

theorem completeRead_eq (w : Word) (hp : s.host.port = .inProgress p) :
    completeRead w s = setHost (readEnd p.ended w) s := by
  unfold completeRead
  rw [hp]
  rfl

theorem hostAccessDone_plainRead (w : Word) (hp : s.host.port = .inProgress p) (hk : p.hold = .plainRead) :
    hostAccessDone w s = setHost (readEnd p.ended w) s := by
  rw [← completeRead_eq w hp]
  simp only [hostAccessDone, heldFor, hostReadDone, hp, hk]

/-- A merge read takes its lanes from the store as it stands at the completion (R81, R88). -/
theorem hostAccessDone_mergeRead {d : Dom} (w : Word) (hp : s.host.port = .inProgress p) (hk : p.hold = .mergeRead d)
    (ha : p.access = .read a) :
    hostAccessDone w s = { s with
      host := { s.host with port := readEnd p.ended (mergedWord s d a w) }
      mgmt := if storeLane s d a true = none ∧ storeLane s d a false = none then s.mgmt
        else s.mgmt.noted [] [.forwardHits] } := by
  have hdone : hostAccessDone w s
      = completeRead (mergedWord s d a w) (if anyLane s d a then bump .forwardHits s else s) := by
    simp only [hostAccessDone, heldFor, hostReadDone, hp, hk, ha]
  rw [hdone]
  by_cases hnone : storeLane s d a true = none ∧ storeLane s d a false = none
  · rw [anyLane_eq_false_iff.mpr hnone, if_pos hnone]
    exact completeRead_eq _ hp
  · have hany : anyLane s d a = true := Bool.eq_true_of_not_eq_false (hnone ∘ anyLane_eq_false_iff.mp)
    rw [hany, if_pos rfl, if_neg hnone]
    exact completeRead_eq (s := bump .forwardHits s) _ hp

end Reads

/-- Settles O26: the class gives the reason that the read is held for, and the completion looks at that reason. -/
theorem hostReadsOfTheArray : Obligations.HostReadsOfTheArray := by
  constructor
  · intro s bus h hr hb hc
    have hheld : seeArrival bus s = { s with
        port := s.port.post .host (readRequest bus.ha)
        host := { s.host with port := heldNow (.read bus.ha) h } } := by
      rw [seeArrival_read hr hb,
        classifiedRead_eq_holdForRead (s := setHost (heldNow (.read bus.ha) .deciding) s) hc, holdForRead_heldNow]
    exact ⟨_, congrArg Host.Outcome.next hheld, rfl, Port.post_host_idle _, fun _ => Port.post_host_busy _⟩
  · rintro s ad p _ n due a _ hp ha rfl hx hn rfl
    have hdone := (takeArdy_of_noneAgain ad hn).trans (accessComplete_hostRead ad hx)
    refine ⟨fun hk => congrArg Host.Outcome.next (hdone.trans ?_),
      fun d hk => congrArg Host.Outcome.next (hdone.trans ?_)⟩
    · exact hostAccessDone_plainRead (s := { s with port := s.port.finish }) _ hp hk
    · exact hostAccessDone_mergeRead (s := { s with port := s.port.finish }) _ hp hk ha

/-- Settles O27: the lookup goes through the open group, then through the queue from its tail. -/
theorem forwardedReadsAndLookupOrder : Obligations.ForwardedReadsAndLookupOrder := by
  constructor
  · intro s bus d lo hi hr hb hc hon hlo hhi
    refine congrArg Host.Outcome.next ?_
    rw [seeArrival_read hr hb, hc,
      classifiedRead_forwarded (s := setHost (heldNow (.read bus.ha) .deciding) s) hon hlo hhi]
    rfl
  · intro s d a lane1 b
    refine ⟨fun e he hdist ha hl => ?_, fun hopen older newer g e hq hg he hdist ha hl hnewer => ?_,
      exists_entry_of_storeLane⟩
    · exact storeLane_of_open (groupLane_of_mem hdist he ha hl)
    · exact storeLane_of_queued (groupLane_eq_none hopen) hq hg
        (fun n hn hdom => groupLane_eq_none (hnewer n hn hdom)) (groupLane_of_mem hdist he ha hl)

end Sys2Proof.Machine
end

section
/-! PROOFS. What one event can do to what the apply engine, the commit queue and the limits depend on (`Duty`). `Work` lists
the elementary changes, each with the condition under which the model makes it, `AccessEnd` the ends of array accesses; every
event and every management write is a chain of changes (`Works`), after the end of an access or without one. An invariant over
the queue, the limits or the engine's access is then a case split over the changes. -/

namespace Sys2Proof.Machine

/-! ### The engine's access at the array port -/

/-- The engine has the request `r` at the port, or none, and no second one behind its access in progress (R103). -/
structure EngineHas (p : Port) (r : Option Request) : Prop where
  outstanding : engineOutstanding p = r
  single : ∀ a, p.access = some a → a.requester = .engine → p.engineReq = none

namespace EngineHas

variable {p q : Port} {r : Option Request}

theorem congr (h : EngineHas p r) (access : q.access = p.access) (waiting : q.engineReq = p.engineReq) :
    EngineHas q r := by
  refine ⟨?_, ?_⟩
  · rw [← h.outstanding, engineOutstanding, engineOutstanding, access, waiting]
  · rw [access, waiting]
    exact h.single

/-- An arbitration at an idle port leaves the engine's request waiting, or begins it (R135). -/
theorem arbitrate (hidle : p.access = none) (hr : p.engineReq = r) : EngineHas p.arbitrate r := by
  subst hr
  unfold Port.arbitrate
  split
  · next he =>
    split
    · exact ⟨rfl, fun a ha hw => by cases ha; cases hw⟩
    · exact ⟨he.symm, fun _ _ _ => rfl⟩
  · exact ⟨rfl, fun a ha hw => by cases ha; cases hw⟩
  · next he => exact ⟨he.symm, fun _ _ _ => rfl⟩
  · exact ⟨rfl, fun a ha hw => by cases ha; cases hw⟩
  · refine ⟨?_, fun a ha => nomatch hidle.symm.trans ha⟩
    rw [engineOutstanding, hidle]

/-- At an idle port the engine has what it waits with. -/
theorem waiting (h : EngineHas p r) (hidle : p.access = none) : p.engineReq = r := by
  rw [← h.outstanding, engineOutstanding, hidle]

/-- A request of another requester leaves the engine's (R134). -/
theorem post_other {who : Requester} (x : Request) (hw : who ≠ .engine) (h : EngineHas p r) :
    EngineHas (p.post who x) r := by
  have haccess : (p.wait who x).access = p.access := by cases who <;> rfl
  have hreq : (p.wait who x).engineReq = p.engineReq := by cases who <;> first | rfl | exact absurd rfl hw
  unfold Port.post
  split
  · exact h.congr haccess hreq
  · next ha =>
    have hidle : p.access = none := by simpa using ha
    exact arbitrate (haccess.trans hidle) (hreq.trans (h.waiting hidle))

/-- The engine's request is its only one where it had none (R103). -/
theorem post (x : Request) (h : EngineHas p none) : EngineHas (p.post .engine x) (some x) := by
  refine ⟨engineOutstanding_post x h.outstanding, ?_⟩
  unfold Port.post
  split
  · intro a ha hw
    have ha' : p.access = some a := ha
    have := h.outstanding
    rw [engineOutstanding, ha'] at this
    simp [hw] at this
  · next ha =>
    have hidle : p.access = none := by simpa using ha
    exact (arbitrate (p := p.wait .engine x) hidle rfl).single

/-- The end of another requester's access leaves the engine's request (R135). -/
theorem finish_other {a : ArrayAccess} (h : EngineHas p r) (ha : p.access = some a) (hw : a.requester ≠ .engine) :
    EngineHas p.finish r := by
  refine arbitrate (p := { p with access := none }) rfl ?_
  rw [← h.outstanding, engineOutstanding, ha]
  exact (if_neg hw).symm

/-- The access in progress is the one that the engine has. -/
theorem eq_access {a : ArrayAccess} (h : EngineHas p r) (ha : p.access = some a) (hw : a.requester = .engine) :
    r = some a.request := by
  rw [← h.outstanding, engineOutstanding, ha]
  exact if_pos hw

/-- At the end of its access the engine has none. -/
theorem finish {a : ArrayAccess} (h : EngineHas p r) (ha : p.access = some a) (hw : a.requester = .engine) :
    EngineHas p.finish none :=
  arbitrate (p := { p with access := none }) rfl (h.single a ha hw)

end EngineHas

/-! ### The engine's states -/

/-- In which states the engine makes no access: IDLE, FAULTED, and BLOCKED without a discard write (R134). -/
def EngineState.rests : EngineState → Bool
  | .idle => true
  | .faulted _ _ => true
  | .blocked _ discarding => !discarding
  | _ => false

/-- The engine writes a group home, or has faulted in doing so. -/
def EngineState.homes : EngineState → Bool
  | .homing _ => true
  | .faulted .homing _ => true
  | _ => false

/-- The header words that recovery holds (R120, R121). -/
def Recovery.headerHeld : Recovery → Option (List Word)
  | .marker => none
  | .header h => some h
  | .records h _ => some h
  | .replay h _ => some h
  | .finish h => some h

/-- Where recovery holds header words, word 0 is VALID (R120). -/
def EngineState.marked (e : EngineState) : Prop :=
  ∀ r h, e = .recovering r → r.headerHeld = some h → wordAt h 0 = Config.validMarker

/-- What follows for the next state of the engine: it writes home only after header word 0 has been written or in going on
with it, a group is in flight only where one was, and recovery goes on with the header words that it has. -/
structure Follows (e e' : EngineState) : Prop where
  homes : e'.homes = true → e.homes = true ∨ e = .marking 0
  flight : e'.inFlight = true → e.inFlight = true
  marked : e.marked → e'.marked

theorem engineRequest_of_rests {s : State} (h : s.engine.state.rests = true) : engineRequest s = none := by
  unfold engineRequest
  cases he : s.engine.state with
  | blocked c discarding =>
    rw [he] at h
    cases discarding with
    | false => rfl
    | true => cases h
  | idle | faulted => rfl
  | _ => rw [he] at h; cases h

/-! ### What the engine, the queue and the limits depend on -/

/-- The registers of limits (R49, R72, R136, R137). -/
structure Limits where
  stalllvl : Word
  resumelvl : Word
  holdlim : Word
  arrto : Word
  starve : Word

/-- What the engine, the queue and the limits depend on. -/
structure Duty where
  straps : Straps
  queue : List GroupRecord
  state : EngineState
  access : Option ArrayAccess
  engineReq : Option Request
  starveCount : Nat
  array : List Host.Cell
  limits : Limits

def State.limits (s : State) : Limits :=
  ⟨s.store.stalllvl, s.store.resumelvl, s.host.holdlim, s.port.arrto, s.port.starve⟩

def State.duty (s : State) : Duty :=
  ⟨s.straps, s.queue, s.engine.state, s.port.access, s.port.engineReq, s.port.starveCount, s.array, s.limits⟩

/-- The limits are in their ranges. -/
structure Limits.InRange (l : Limits) : Prop where
  stalllvl : l.stalllvl.toNat ≤ 255
  resumelvl_pos : 1 ≤ l.resumelvl.toNat
  resumelvl : l.resumelvl.toNat ≤ 511
  holdlim : l.holdlim.toNat ≤ 255
  arrto : l.arrto.toNat ≤ 255
  starve_pos : 1 ≤ l.starve.toNat
  starve : l.starve.toNat ≤ 15

/-- A record as the apply sees it: whether a commit waits for it makes no difference. -/
def GroupRecord.unsynced (g : GroupRecord) : GroupRecord := { g with sync := false }

/-- What the engine asks for depends on its state, the straps and the head of the queue. -/
theorem engineRequest_congr {s t : State} (straps : t.straps = s.straps) (state : t.engine.state = s.engine.state)
    (head : s.engine.state.inFlight = true →
      t.queue.head?.map GroupRecord.unsynced = s.queue.head?.map GroupRecord.unsynced) :
    engineRequest t = engineRequest s := by
  have hread : ∀ f : Option GroupRecord → Option Request, (∀ o, f (o.map GroupRecord.unsynced) = f o) →
      s.engine.state.inFlight = true → f t.queue.head? = f s.queue.head? := by
    intro f hf hs
    rw [← hf t.queue.head?, head hs, hf]
  unfold engineRequest
  rw [state, straps]
  cases he : s.engine.state with
  | copying i w => exact hread (Option.map _) (fun o => by cases o <;> rfl) (by rw [he]; rfl)
  | marking k => exact hread (Option.map _) (fun o => by cases o <;> rfl) (by rw [he]; rfl)
  | homing i => exact hread (fun o => o.bind _) (fun o => by cases o <;> rfl) (by rw [he]; rfl)
  | _ => rfl

/-! ### The elementary changes -/

/-- What the engine does when its access has ended, or at a command: it goes on with the next access, or it rests, where
the head may have left the queue. -/
inductive EngineTurn (s : State) : State → Prop
  | goOn {u : State} (e : EngineState) (hu : u.duty = s.duty) (next : Follows s.engine.state e) :
      EngineTurn s (goOn e u)
  | rest {t : State} (ht : t.duty = { s.duty with state := t.engine.state, queue := t.queue })
      (rests : t.engine.state.rests = true) (next : Follows s.engine.state t.engine.state)
      (length : t.queue.length ≤ s.queue.length) (flight : t.engine.state.inFlight = true → t.queue = s.queue) :
      EngineTurn s t
  /-- With no group queued no apply goes on; an engine in flight always has one. -/
  | stuck (flight : s.engine.state.inFlight = true) (hq : s.queue = []) : EngineTurn s s

/-- The elementary changes that events and management writes make, but for the ends of array accesses. -/
inductive Work : State → State → Prop
  /-- Most changes touch nothing of what stands in `Duty`. -/
  | note {s t : State} (h : t.duty = s.duty) : Work s t
  | limits {s t : State} (h : t.duty = { s.duty with limits := t.limits }) (range : s.limits.InRange → t.limits.InRange) :
      Work s t
  /-- A group joins the queue where a slot is free, or groups leave; a head in flight stays. -/
  | queue {s : State} (q : List GroupRecord) (length : q.length ≤ 32 ∨ q.length ≤ s.queue.length)
      (head : s.engine.state.inFlight = true → s.queue ≠ [] →
        q.head?.map GroupRecord.unsynced = s.queue.head?.map GroupRecord.unsynced) :
      Work s { s with queue := q }
  /-- A request that is not the engine's reaches the port, or the count of ticks of the access rises. -/
  | port {s : State} (p : Port) (engine : ∀ r, EngineHas s.port r → EngineHas p r) (arrto : p.arrto = s.port.arrto)
      (starve : p.starve = s.port.starve) (count : s.port.starveCount ≤ 15 → p.starveCount ≤ 15) :
      Work s { s with port := p }
  /-- The engine begins the head group (R96). -/
  | begin {s : State} (h : canBegin s = true) : Work s (beginHead s)
  /-- An engine command takes an engine that rests (R106). -/
  | command {s t : State} (rests : s.engine.state.rests = true) (turn : EngineTurn s t) : Work s t

/-- The array's contents after the end of an access: as they were, or a word is stored where it writes (R133, R137). -/
def storedBy (a : ArrayAccess) (m m' : List Host.Cell) : Prop :=
  m' = m ∨ ∃ w, a.request.kind = .write ∧ m' = Memory.store m a.request.addr a.request.lanes w

/-- The end of an array access, which alone changes the array's contents. -/
inductive AccessEnd (s : State) : State → Prop
  /-- An access of the host or of the diagnostic read ends. -/
  | other {a : ArrayAccess} {m : List Host.Cell} (ha : s.port.access = some a) (hw : a.requester ≠ .engine)
      (hm : storedBy a s.array m) : AccessEnd s { s with array := m, port := s.port.finish }
  /-- An access of the engine ends; where the engine goes on from header word 0 to write home, the word is stored. -/
  | engine {a : ArrayAccess} {m : List Host.Cell} {t : State} (ha : s.port.access = some a)
      (hw : a.requester = .engine) (hm : storedBy a s.array m)
      (turn : EngineTurn { s with array := m, port := s.port.finish } t)
      (valid : s.engine.state = .marking 0 → t.engine.state.homes = true → a.request.kind = .write →
        m = Memory.store s.array a.request.addr a.request.lanes a.request.data) : AccessEnd s t

/-- A chain of changes. -/
def Works : State → State → Prop := Relation.ReflTransGen Work

theorem Works.refl (s : State) : Works s s := Relation.ReflTransGen.refl

theorem Works.trans {s t u : State} (h : Works s t) (k : Works t u) : Works s u := Relation.ReflTransGen.trans h k

/-- A predicate that each change keeps is kept by every chain of them. -/
theorem Works.keep {P : State → Prop} (hP : ∀ s t, Work s t → P s → P t) {s t : State} (h : Works s t) (hs : P s) :
    P t := by
  induction h with
  | refl => exact hs
  | tail _ hw ih => exact hP _ _ hw ih

/-! ### What leaves the engine, the queue and the limits alone -/

section Duties

variable (s : State)

theorem duty_setHold (k : Hold) : (setHold k s).duty = s.duty := by
  unfold setHold
  split <;> rfl

theorem duty_completeQuiet : (completeQuiet s).duty = s.duty := by
  unfold completeQuiet
  split <;> rfl

theorem duty_completeRead (w : Word) : (completeRead w s).duty = s.duty := by
  unfold completeRead
  split <;> rfl

theorem duty_dropWrite (c : DropCause) : (dropWrite c s).duty = s.duty := duty_completeQuiet _

theorem duty_dropParity : (dropParity s).duty = s.duty := duty_dropWrite _ .parity

theorem duty_loadAge (d : Dom) : (loadAge d s).duty = s.duty := by
  unfold loadAge
  split <;> rfl

theorem duty_reloadIfIdle (d : Dom) : (reloadIfIdle d s).duty = s.duty := by
  unfold reloadIfIdle
  split
  · exact duty_loadAge s d
  · rfl

theorem duty_flowAfterTake : (flowAfterTake s).duty = s.duty := by
  unfold flowAfterTake
  split <;> rfl

theorem duty_flowAfterRelease (n : Nat) : (flowAfterRelease n s).duty = s.duty := by
  unfold flowAfterRelease
  split <;> rfl

theorem duty_flowRetest : (flowRetest s).duty = s.duty := by
  unfold flowRetest
  split
  · exact duty_flowAfterTake s
  · split <;> rfl

theorem duty_breakCore (d : Dom) (c : BreakCause) : (breakCore d c s).duty = s.duty := by
  unfold breakCore
  split <;> rfl

theorem duty_breakDomain (d : Dom) (c : BreakCause) : (breakDomain d c s).duty = s.duty :=
  (duty_flowAfterRelease _ _).trans (duty_breakCore s d c)

theorem duty_breakIfOpen (c : BreakCause) (d : Dom) : (breakIfOpen c s d).duty = s.duty := by
  unfold breakIfOpen
  split
  · exact duty_breakCore s d c
  · rfl

theorem duty_breakAll (c : BreakCause) : (breakAll c s).duty = s.duty := by
  simp only [breakAll, Ix4.all, List.foldl, duty_breakIfOpen]

theorem duty_commitToBroken (d : Dom) : (commitToBroken d s).duty = s.duty := duty_dropWrite _ .broken

theorem duty_consumeHeldCommit : (consumeHeldCommit s).duty = s.duty := by
  unfold consumeHeldCommit
  split
  · exact duty_commitToBroken s _
  · rfl

theorem duty_completeSync : (completeSync s).duty = s.duty := by
  unfold completeSync
  split
  · exact duty_completeQuiet s
  · rfl

theorem duty_completeSync_if (b : Bool) : (if b then completeSync s else s).duty = s.duty := by
  cases b
  · rfl
  · exact duty_completeSync s

theorem duty_takeCoalesce (d : Dom) (a : Addr) (l : Lanes) (w : Word) : (takeCoalesce d a l w s).duty = s.duty :=
  (duty_completeQuiet _).trans (duty_reloadIfIdle _ d)

theorem duty_takeNew (d : Dom) (a : Addr) (l : Lanes) (w : Word) : (takeNew d a l w s).duty = s.duty := by
  refine (duty_completeQuiet _).trans ((duty_flowAfterTake _).trans ?_)
  split
  · exact duty_reloadIfIdle _ d
  · exact duty_loadAge _ d

theorem duty_placeNow (d : Dom) (a : Addr) (l : Lanes) (w : Word) : (placeNow d a l w s).duty = s.duty := by
  unfold placeNow
  split
  · exact duty_takeCoalesce s d a l w
  · split
    · exact (duty_dropWrite _ _).trans (duty_breakDomain s d .ceiling)
    · exact duty_takeNew s d a l w

theorem duty_examineWrite (x : Bool) (d : Dom) (a : Addr) (l : Lanes) (w : Word) :
    (examineWrite x d a l w s).duty = s.duty := by
  unfold examineWrite
  split
  · exact duty_dropWrite s _
  · split
    · exact duty_dropWrite s .power
    · split
      · exact duty_placeNow s d a l w
      · split
        · exact (duty_dropWrite _ _).trans (duty_breakDomain s d .hold)
        · split
          · rfl
          · exact (duty_dropWrite _ _).trans (duty_breakDomain s d .storeFull)

theorem duty_abortGroup (d : Dom) : (abortGroup d s).duty = s.duty :=
  (duty_completeQuiet _).trans (duty_flowAfterRelease _ _)

theorem duty_seeReturnIdle : (seeReturnIdle s).duty = s.duty := by
  unfold seeReturnIdle
  split <;> rfl

theorem duty_seeStrobesEnd : (seeStrobesEnd s).duty = s.duty := by
  unfold seeStrobesEnd
  split <;> rfl

theorem duty_hostAccessDone (w : Word) : (hostAccessDone w s).duty = s.duty := by
  unfold hostAccessDone hostReadDone
  split
  · exact duty_completeQuiet s
  · split
    · split
      · refine (duty_completeRead _ _).trans ?_
        split <;> rfl
      · exact duty_completeRead s w
      · rfl
    · rfl

theorem duty_hostTimedOut : (hostTimedOut s).duty = s.duty := by
  unfold hostTimedOut
  dsimp only
  split
  · exact duty_completeQuiet _
  · exact duty_completeRead _ _
  · exact duty_completeRead _ _
  · rfl

theorem duty_tickHold : (tickHold s).duty = s.duty := by
  unfold tickHold
  split
  · split <;> rfl
  · rfl

end Duties

/-! ### Chains of changes through the shared operations -/

section Chains

variable {s t : State}

theorem Works.note {u : State} (h : Works s t) (hu : u.duty = t.duty) : Works s u := h.tail (.note hu)

theorem Works.queue (h : Works s t) (q : List GroupRecord) (length : q.length ≤ 32 ∨ q.length ≤ t.queue.length)
    (head : t.engine.state.inFlight = true → t.queue ≠ [] →
      q.head?.map GroupRecord.unsynced = t.queue.head?.map GroupRecord.unsynced) :
    Works s { t with queue := q } := h.tail (.queue q length head)

theorem Works.clearSyncFlags (h : Works s t) : Works s (clearSyncFlags t) := by
  refine h.queue _ (.inr (List.length_map _).le) fun _ _ => ?_
  rw [List.head?_map, Option.map_map]
  rfl

/-- A group joins the queue where a slot is free (R25). -/
theorem Works.queueGroup (d : Dom) (tag : Word) (b : Bool) (h : Works s t) (hslot : slotFree t = true) :
    Works s (queueGroup d tag b t) := by
  have hlen := (slotFree_iff t).mp hslot
  have hq : Works s { t with queue := t.queue ++ [recordOf t d tag b] } := by
    refine h.queue _ (.inl ?_) fun _ hne => ?_
    · rw [List.length_append, List.length_singleton]
      exact hlen
    · rw [List.head?_append_of_ne_nil _ hne]
  exact hq.note rfl

theorem Port.post_starveCount {p : Port} (who : Requester) (r : Request) (h : p.starveCount ≤ 15) :
    (p.post who r).starveCount ≤ 15 := by
  unfold Port.post
  split
  · cases who <;> exact h
  · exact Port.arbitrate_starveCount _

theorem Works.postRequest {who : Requester} (r : Request) (h : Works s t) (hw : who ≠ .engine) :
    Works s (postRequest who r t) := by
  obtain ⟨harrto, hstarve, _⟩ := Port.post_limits who r t.port
  exact h.tail (.port _ (fun _ => .post_other r hw) harrto hstarve (Port.post_starveCount who r))

theorem Works.tryBegin (h : Works s t) : Works s (tryBegin t) := by
  unfold Machine.tryBegin
  split
  · next hc => exact h.tail (.begin hc)
  · exact h

theorem Works.commitQueued (d : Dom) (tag : Word) (h : Works s t) (hslot : slotFree t = true) :
    Works s (commitQueued d tag t) := by
  unfold Machine.commitQueued
  split
  · exact (h.queueGroup d tag true hslot).note (duty_setHold _ _)
  · exact (h.queueGroup d tag false hslot).note (duty_completeQuiet _)

theorem Works.grantCommit (h : Works s t) : Works s (grantCommit t) := by
  unfold Machine.grantCommit
  split
  · split
    · next hslot => exact h.commitQueued _ _ hslot
    · exact h
  · exact h

theorem Works.grantPending (d : Dom) (h : Works s t) : Works s (grantPending t d) := by
  unfold Machine.grantPending
  split
  · next hd =>
    obtain ⟨_, _, hslot⟩ := hd
    exact h.queueGroup d _ false hslot
  · exact h

theorem Works.grantSlots (h : Works s t) : Works s (grantSlots t) :=
  (((h.grantCommit.grantPending .i0).grantPending .i1).grantPending .i2).grantPending .i3

theorem Works.examineCommit (x : Bool) (d : Dom) (tag : Word) (h : Works s t) : Works s (examineCommit x d tag t) := by
  unfold Machine.examineCommit
  split
  · next hslot => exact (h.commitQueued d tag hslot).tryBegin
  · split
    · exact h.note ((duty_commitToBroken _ d).trans (duty_breakDomain t d .hold))
    · split
      · exact h
      · exact h.note ((duty_commitToBroken _ d).trans (duty_breakDomain t d .queueFull))

theorem Works.examine (x : Bool) (h : Works s t) : Works s (examine x t) := by
  unfold Machine.examine
  split
  · split
    · exact h.note (duty_examineWrite t x _ _ _ _)
    · exact h.examineCommit x _ _
    · exact h
  · exact h

theorem Works.grantAndBegin (h : Works s t) : Works s (grantAndBegin t) := h.grantSlots.tryBegin.examine false

theorem Works.beginAndExamine (h : Works s t) : Works s (beginAndExamine t) := by
  unfold Machine.beginAndExamine
  split
  · next hc => exact Works.examine false (h.tail (.begin hc))
  · exact h

/-! ### Chains of changes through the Host Port's operations -/

theorem Works.holdForRead (k : Hold) (a : Addr) (h : Works s t) : Works s (holdForRead k a t) :=
  (h.note (duty_setHold t k)).postRequest _ nofun

theorem Works.classifiedRead (c : Class) (a : Addr) (h : Works s t) : Works s (classifiedRead c a t) := by
  unfold Machine.classifiedRead
  split
  · exact h.note (duty_completeRead t _)
  · exact h.note (duty_completeRead t _)
  · split
    · unfold Machine.stagedRead
      split
      · exact h.note (duty_completeRead _ _)
      · exact h.holdForRead _ a
    · exact h.holdForRead _ a
  all_goals exact h.holdForRead _ a

theorem Works.stagedWrite (d : Dom) (a : Addr) (l : Lanes) (w : Word) (bad : Bool) (h : Works s t) :
    Works s (stagedWrite d a l w bad t) := by
  unfold Machine.stagedWrite
  split
  · exact h.note ((duty_dropParity _).trans (duty_breakDomain t d .parity))
  · split
    · exact h.note (duty_dropWrite t .broken)
    · split
      · exact h.note (duty_placeNow t d a l w)
      · exact (h.note (duty_setHold t _)).examine false

theorem Works.commitGroup (d : Dom) (tag : Word) (h : Works s t) : Works s (commitGroup d tag t) := by
  unfold Machine.commitGroup
  split
  · exact h.note (duty_commitToBroken t d)
  · split
    · next hslot => exact (h.commitQueued d tag hslot).tryBegin
    · exact Works.examine false (h.note (duty_setHold (modDomain d _ t) _))

theorem Works.commitCellWrite (d : Dom) (l : Lanes) (w : Word) (bad : Bool) (h : Works s t) :
    Works s (commitCellWrite d l w bad t) := by
  unfold Machine.commitCellWrite
  split
  · refine h.note ((duty_dropWrite _ .format).trans ?_)
    split
    · exact duty_breakDomain t d .format
    · rfl
  · split
    · exact h.note ((duty_dropParity _).trans (duty_breakDomain t d .parity))
    · split
      · exact h.note (duty_abortGroup t d)
      · exact h.commitGroup d w

theorem Works.passWrite (a : Addr) (l : Lanes) (w : Word) (bad : Bool) (h : Works s t) :
    Works s (passWrite a l w bad t) := by
  unfold Machine.passWrite
  split
  · exact h.note (duty_dropParity t)
  · exact (h.note (duty_setHold t _)).postRequest _ nofun

theorem Works.classifiedWrite (c : Class) (a : Addr) (l : Lanes) (w : Word) (hdp : Option (BitVec 2)) (h : Works s t) :
    Works s (classifiedWrite c a l w hdp t) := by
  unfold Machine.classifiedWrite
  split
  · exact h.note (duty_dropWrite t _)
  · split
    · exact h.commitCellWrite _ l w _
    · exact h.stagedWrite _ a l w _
    · exact h.passWrite a l w _
    all_goals exact h

theorem Works.presentAccess (a : Access) (h : Works s t) : Works s (presentAccess a t) := by
  unfold Machine.presentAccess
  split
  · exact h.note (duty_completeQuiet t)
  · exact h.classifiedRead _ _
  · split
    · exact h.note (duty_completeQuiet t)
    · exact h.classifiedWrite _ _ _ _ _

theorem Works.arrive (a : Access) (h : Works s t) : Works s (arrive a t) := by
  unfold Machine.arrive
  split
  · exact h.note rfl
  · exact Works.presentAccess a (h.note rfl)

theorem Works.settle (before : State) (h : Works s t) : Works s (settle before t) := by
  unfold Machine.settle
  dsimp only
  split
  · split
    · exact Works.arrive _ (h.note rfl)
    · exact h.note rfl
  · exact h

theorem Works.seeArrival (bus : HostBus) (h : Works s t) : Works s (seeArrival bus t) := by
  unfold Machine.seeArrival
  split
  · exact h.arrive _
  · split
    · exact h.note rfl
    · exact h
  · exact h

theorem Works.releaseHeld (h : Works s t) : Works s (releaseHeld t) := by
  unfold Machine.releaseHeld
  split
  · split
    · exact Works.presentAccess _ (h.note rfl)
    · exact h
  · exact h

end Chains

end Sys2Proof.Machine
end

section
/-! PROOFS. The engine's turns at the end of an access and at a command; so every event and every management write is a
chain of changes. -/

namespace Sys2Proof.Machine

/-! ### What follows in the engine -/

theorem marked_of_not_recovering {e : EngineState} (h : ∀ r, e ≠ .recovering r) : e.marked :=
  fun r _ hr => absurd hr (h r)

/-- An apply goes on with its group. -/
theorem Follows.inFlight {e e' : EngineState} (he : e.inFlight = true) (h : ∀ r, e' ≠ .recovering r)
    (homes : e'.homes = true → e.homes = true ∨ e = .marking 0) : Follows e e' :=
  ⟨homes, fun _ => he, fun _ => marked_of_not_recovering h⟩

/-- Nothing follows in a state with no group in flight and no recovery. -/
theorem Follows.out {e e' : EngineState} (he : e'.inFlight = false) (h : ∀ r, e' ≠ .recovering r) : Follows e e' := by
  refine ⟨fun hh => ?_, fun hf => (nomatch he.symm.trans hf), fun _ => marked_of_not_recovering h⟩
  cases e' with
  | homing i => cases he
  | faulted p i => cases he
  | _ => cases hh

/-- Recovery goes on with the header words that it holds. -/
theorem Follows.recovers {e : EngineState} {r : Recovery}
    (h : e.marked → ∀ ws, r.headerHeld = some ws → wordAt ws 0 = Config.validMarker) : Follows e (.recovering r) := by
  refine ⟨nofun, nofun, fun he r' ws hr hw => ?_⟩
  cases hr
  exact h he ws hw

/-- The turn of the engine, and what the part does for the host after it. -/
def Turned (s t : State) : Prop := ∃ u, EngineTurn s u ∧ Works u t

section Turns

variable {s t u : State}

theorem EngineTurn.turned (h : EngineTurn s u) (k : Works u t) : Turned s t := ⟨u, h, k⟩

theorem turned_goOn {e : EngineState} (next : Follows s.engine.state e) : Turned s (goOn e s) :=
  (EngineTurn.goOn e rfl next).turned (.refl _)

theorem turned_enter {e : EngineState} (next : Follows s.engine.state e) : Turned s (enter e s) :=
  (EngineTurn.goOn e rfl next).turned (Works.examine false (.refl _))

/-- The engine comes to rest with the queue as it is. -/
theorem EngineTurn.rests {t : State} (ht : t.duty = { s.duty with state := t.engine.state })
    (rests : t.engine.state.rests = true) (next : Follows s.engine.state t.engine.state) : EngineTurn s t := by
  have hq : t.queue = s.queue := congrArg Duty.queue ht
  exact .rest (by rw [hq]; exact ht) rests next (by rw [hq]) fun _ => hq

/-! ### Applies -/

/-- The head leaves the queue, and the engine is IDLE. -/
theorem EngineTurn.headLeaves {g : GroupRecord} {rest : List GroupRecord} (hq : s.queue = g :: rest) :
    EngineTurn s (setEngine .idle { s with queue := rest }) :=
  .rest rfl rfl (.out rfl nofun) (by rw [hq]; exact Nat.le_succ _) nofun

theorem turned_retire (hf : s.engine.state.inFlight = true) : Turned s (retire s) := by
  unfold retire
  split
  · next hq => exact (EngineTurn.stuck hf hq).turned (.refl _)
  · next g rest hq =>
    refine (EngineTurn.headLeaves hq).turned (Works.grantAndBegin ?_)
    exact Works.note (.refl _) ((duty_completeSync_if _ g.sync).trans (duty_flowAfterRelease _ _))

theorem turned_abandonHead (hf : s.engine.state.inFlight = true) : Turned s (abandonHead s) := by
  unfold abandonHead
  split
  · next hq => exact (EngineTurn.stuck hf hq).turned (.refl _)
  · next g rest hq =>
    refine (EngineTurn.headLeaves hq).turned (Works.grantAndBegin ?_)
    exact Works.note (.refl _) ((duty_completeSync_if _ g.sync).trans (duty_flowAfterRelease _ _))

theorem turned_copyingDone {i w : Nat} (he : s.engine.state = .copying i w) : Turned s (copyingDone i w s) := by
  have hf : s.engine.state.inFlight = true := by rw [he]; rfl
  unfold copyingDone
  split
  · exact turned_goOn (.inFlight hf nofun nofun)
  · split
    · exact turned_goOn (.inFlight hf nofun nofun)
    · exact turned_enter (.inFlight hf nofun nofun)

theorem turned_markingDone {k : Nat} (he : s.engine.state = .marking k) : Turned s (markingDone k s) := by
  have hf : s.engine.state.inFlight = true := by rw [he]; rfl
  unfold markingDone
  split
  · next hk => exact turned_enter (.inFlight hf nofun fun _ => .inr (by rw [he, hk]))
  · split
    · exact turned_goOn (.inFlight hf nofun nofun)
    · exact turned_goOn (.inFlight hf nofun nofun)

theorem turned_homingDone {i : Nat} (he : s.engine.state = .homing i) : Turned s (homingDone i s) := by
  have hf : s.engine.state.inFlight = true := by rw [he]; rfl
  unfold homingDone
  split
  · exact turned_goOn (.inFlight hf nofun fun _ => .inl (by rw [he]; rfl))
  · split
    · exact turned_enter (.inFlight hf nofun nofun)
    · exact turned_retire hf

/-! ### Recovery -/

theorem turned_endRecovery {e : EngineState} (rests : e.rests = true) (next : Follows s.engine.state e)
    (ht : t.duty = s.duty) : Turned s (endRecovery e t) := by
  have hduty : (setEngine e t).duty = { s.duty with state := e } := congrArg (fun v : Duty => { v with state := e }) ht
  exact (EngineTurn.rests (t := setEngine e t) hduty rests next).turned (Works.releaseHeld (.refl _))

theorem turned_failRecovery (c : BlockCause) : Turned s (failRecovery c s) :=
  turned_endRecovery rfl (.out rfl nofun) rfl

/-- The header words of a recovery that goes on begin with VALID. -/
theorem turned_recovers {r : Recovery} {h : List Word} (hr : r.headerHeld = some h)
    (hm : s.engine.state.marked → wordAt h 0 = Config.validMarker) : Turned s (goOn (.recovering r) s) := by
  refine turned_goOn (.recovers fun he ws hw => ?_)
  cases hr.symm.trans hw
  exact hm he

section Header

variable {h : List Word} (hm : s.engine.state.marked → wordAt h 0 = Config.validMarker)

include hm

theorem turned_replayOn (rest : List JournalRecord) : Turned s (replayOn h rest s) := by
  unfold replayOn
  split
  · exact turned_recovers rfl hm
  · exact turned_recovers rfl hm

theorem turned_headerRead : Turned s (headerRead h s) := by
  unfold headerRead
  split
  · exact turned_recovers rfl hm
  · split
    · exact turned_recovers rfl hm
    · exact turned_failRecovery .check

theorem turned_recordRead (ws : List Word) : Turned s (recordRead h ws s) := by
  unfold recordRead
  split
  · exact turned_recovers rfl hm
  · split
    · exact turned_replayOn hm _
    · exact turned_failRecovery .check

end Header

/-- A word joins the header words after word 0. -/
theorem wordAt_zero_append {h : List Word} (w : Word) (hv : wordAt h 0 = Config.validMarker) :
    wordAt (h ++ [w]) 0 = Config.validMarker := by
  cases h with
  | nil => exact absurd hv (by decide)
  | cons x xs => exact hv

theorem turned_recoveryDone {r : Recovery} (w : Word) (he : s.engine.state = .recovering r) :
    Turned s (recoveryDone r w s) := by
  have hm : ∀ h, r.headerHeld = some h → s.engine.state.marked → wordAt h 0 = Config.validMarker :=
    fun h hr hmarked => hmarked r h he hr
  unfold recoveryDone
  split
  · split
    · next hw => exact turned_headerRead fun _ => hw
    · exact turned_endRecovery rfl (.out rfl nofun) rfl
  · next read => exact turned_headerRead fun hmarked => wordAt_zero_append w (hm read rfl hmarked)
  · next h read => exact turned_recordRead (hm h rfl) _
  · next h rest => exact turned_replayOn (hm h rfl) _
  · next h => exact turned_endRecovery rfl (.out rfl nofun) rfl

/-- RECOVERING is entered with no header word held (R119). -/
theorem turned_startRecovery (s : State) : Turned s (startRecovery s) :=
  (EngineTurn.goOn (s := s)
    (u := { s with engine := { s.engine with rseq := 0#16, rdom := 0#16, rtag := 0#16, rcnt := 0#16 } })
    (.recovering .marker) rfl (.recovers fun _ _ h => nomatch h)).turned (.refl _)

/-! ### The end of an access of the engine -/

theorem turned_self (h : s.engine.state.rests = true) : Turned s s :=
  (EngineTurn.rests rfl h ⟨.inl, id, id⟩).turned (.refl _)

theorem turned_engineAccessDone (w : Word) (s : State) : Turned s (engineAccessDone w s) := by
  unfold engineAccessDone
  split
  · next he => exact turned_recoveryDone w he
  · next c discarding he =>
    cases discarding with
    | true => exact (EngineTurn.rests (t := setEngine .idle s) rfl rfl (.out rfl nofun)).turned (.refl _)
    | false => exact turned_self (by rw [he]; rfl)
  · next he => exact turned_self (by rw [he]; rfl)
  · next he => exact turned_copyingDone he
  · next he => exact turned_markingDone he
  · next he => exact turned_homingDone he
  · next he => exact turned_retire (by rw [he]; rfl)
  · next he => exact turned_self (by rw [he]; rfl)

/-- A turn in which the engine begins no write home, and what the part does for the host after it. -/
def TurnedAway (s t : State) : Prop :=
  ∃ u, EngineTurn s u ∧ (u.engine.state.homes = true → s.engine.state.homes = true) ∧ Works u t

theorem turnedAway_self (ht : t.duty = s.duty) (h : s.engine.state.rests = true) : TurnedAway s t := by
  have he : t.engine.state = s.engine.state := congrArg Duty.state ht
  refine ⟨t, .rests (by rw [he]; exact ht) (by rw [he]; exact h) (by rw [he]; exact ⟨.inl, id, id⟩), ?_, .refl t⟩
  rw [he]
  exact id

theorem turnedAway_setEngine {e : EngineState} (ht : t.duty = s.duty) (rests : e.rests = true)
    (homes : e.homes = true → s.engine.state.homes = true)
    (flight : e.inFlight = true → s.engine.state.inFlight = true) (hw : Works (setEngine e t) u) : TurnedAway s u := by
  have hduty : (setEngine e t).duty = { s.duty with state := e } := congrArg (fun v : Duty => { v with state := e }) ht
  have hr : ∀ r, e ≠ .recovering r := fun r he => by rw [he] at rests; cases rests
  exact ⟨_, .rests hduty rests ⟨fun h => .inl (homes h), flight, fun _ => marked_of_not_recovering hr⟩, homes, hw⟩

/-- A timeout of an apply faults it in its phase (R104). -/
theorem turnedAway_fault {p : Phase} {i : Nat} (ht : t.duty = s.duty) (hf : s.engine.state.inFlight = true)
    (homes : p = .homing → s.engine.state.homes = true) : TurnedAway s (fault p i t) :=
  turnedAway_setEngine (e := .faulted p i) (t := setFlag .fault t) ht rfl
    (fun h => homes (by cases p <;> first | rfl | cases h)) (fun _ => hf) (Works.examine false (.refl _))

/-- A timeout takes the engine to a state in which it makes no access (R104, R126, R130). -/
theorem turned_engineTimedOut (s : State) : TurnedAway s (engineTimedOut s) := by
  have hd : (setFlag .array { s with port := { s.port with arrsrc := .engine } }).duty = s.duty := rfl
  unfold engineTimedOut
  dsimp only
  generalize setFlag .array { s with port := { s.port with arrsrc := .engine } } = t at hd ⊢
  split
  · exact turnedAway_setEngine (e := .blocked .array false) (t := setFlag .recfail t) hd rfl nofun nofun
      (Works.releaseHeld (.refl _))
  · next c _ _ =>
    split
    · exact turnedAway_setEngine (e := .blocked .array false) (t := setFlag .recfail t) hd rfl nofun nofun (.refl _)
    · exact turnedAway_setEngine (e := .blocked c false) hd rfl nofun nofun (.refl _)
  · next he => exact turnedAway_self hd (by rw [he]; rfl)
  · next he => exact turnedAway_fault hd (by rw [he]; rfl) nofun
  · next he => exact turnedAway_fault hd (by rw [he]; rfl) nofun
  · next he => exact turnedAway_fault hd (by rw [he]; rfl) fun _ => by rw [he]; rfl
  · next he => exact turnedAway_fault hd (by rw [he]; rfl) nofun
  · next he => exact turnedAway_self hd (by rw [he]; rfl)

/-! ### The ends of array accesses -/

theorem storedBy_complete (a : ArrayAccess) (m : List Host.Cell) :
    storedBy a m (match a.request.kind with
      | .write => Memory.store m a.request.addr a.request.lanes a.request.data
      | .read => m) := by
  split
  · next hk => exact .inr ⟨_, hk, rfl⟩
  · exact .inl rfl

theorem storedBy_interrupted {a : ArrayAccess} (left : Option Word) (ha : s.port.access = some a) :
    storedBy a s.array (interrupted left s) := by
  unfold interrupted
  rw [ha]
  split
  · next b w hb =>
    cases hb
    split
    · next hk => exact .inr ⟨w, hk, rfl⟩
    · exact .inl rfl
  · exact .inl rfl

/-- The end of an access, if one ends, and what the part does after it. -/
def EndsThen (s t : State) : Prop := Works s t ∨ ∃ u, AccessEnd s u ∧ Works u t

theorem EndsThen.then (h : EndsThen s t) (k : Works t u) : EndsThen s u := by
  obtain h | ⟨v, hv, h⟩ := h
  · exact .inl (h.trans k)
  · exact .inr ⟨v, hv, h.trans k⟩

/-- The end of an access that is not the engine's. -/
theorem endsThen_other {a : ArrayAccess} {m : List Host.Cell} (ha : s.port.access = some a) (hm : storedBy a s.array m)
    (hw : a.requester ≠ .engine) (ht : t.duty = State.duty { s with array := m, port := s.port.finish }) :
    EndsThen s t := .inr ⟨_, .other ha hw hm, Works.note (.refl _) ht⟩

theorem endsThen_accessComplete (ad : Option Word) (s : State) : EndsThen s (accessComplete ad s) := by
  unfold Machine.accessComplete
  split
  · exact .inl (.refl s)
  · next a ha =>
    have hm := storedBy_complete a s.array
    dsimp only
    split
    · next hw => exact endsThen_other ha hm (by rw [hw]; nofun) (duty_hostAccessDone _ _)
    · next hw =>
      obtain ⟨u, hu, k⟩ := turned_engineAccessDone (ad.getD (Memory.word s.array a.request.addr))
        { s with array := _, port := s.port.finish }
      exact .inr ⟨u, .engine ha hw hm hu fun _ _ hk => by rw [hk], k⟩
    · next hw => exact endsThen_other ha hm (by rw [hw]; nofun) rfl

theorem endsThen_accessTimeout (left : Option Word) (s : State) : EndsThen s (accessTimeout left s) := by
  unfold Machine.accessTimeout
  split
  · exact .inl (.refl s)
  · next a ha =>
    have hm := storedBy_interrupted left ha
    split
    · dsimp only
      split
      · next hw => exact endsThen_other ha hm (by rw [hw]; nofun) (duty_hostTimedOut _)
      · next hw =>
        obtain ⟨u, hu, hh, k⟩ := turned_engineTimedOut { s with array := interrupted left s, port := s.port.finish }
        refine .inr ⟨u, .engine ha hw hm hu fun hs hhomes => ?_, k⟩
        exact nomatch (congrArg EngineState.homes hs).symm.trans (hh hhomes)
      · next hw => exact endsThen_other ha hm (by rw [hw]; nofun) rfl
    · exact .inl (.refl s)

/-! ### Time and power -/

theorem Works.tickArray (h : Works s t) : Works s (tickArray t) := by
  unfold Machine.tickArray
  split
  · exact h
  · next a ha =>
    refine h.tail (.port _ (fun r hr => ⟨?_, ?_⟩) rfl rfl id)
    · rw [← hr.outstanding, engineOutstanding, engineOutstanding, ha]
    · intro b hb hw
      cases hb
      exact hr.single a ha hw

theorem Works.tickCounts (h : Works s t) : Works s (tickCounts t) :=
  Works.note (Works.tickArray (h.note (duty_tickHold t))) rfl

theorem Works.holdExpiry (h : Works s t) : Works s (holdExpiry t) := by
  unfold Machine.holdExpiry
  split
  · split
    · split
      · exact h.clearSyncFlags.note (duty_completeQuiet _)
      · exact h.examine true
    · exact h
  · exact h

theorem Works.ageExpiry (d : Dom) (h : Works s t) : Works s (ageExpiry d t) := by
  unfold Machine.ageExpiry
  split
  · have h1 : Works s (setFlag .age (modDomain d (fun x => { x with ageDue := false }) t)) := h.note rfl
    dsimp only
    split
    · exact h1
    · split
      · next hslot => exact (h1.queueGroup d _ false hslot).beginAndExamine
      · exact h1.note rfl
    · exact Works.examine false (h1.note (duty_breakDomain _ d .age))
  · exact h

theorem endsThen_takeExpiry (e : Expiry) (s : State) : EndsThen s (takeExpiry s e) := by
  refine EndsThen.then ?_ (Works.settle s (.refl _))
  cases e with
  | hold => exact .inl (Works.holdExpiry (.refl s))
  | array left => exact endsThen_accessTimeout left s
  | age d => exact .inl (Works.ageExpiry d (.refl s))

theorem Works.endHeldByPower (h : Works s t) : Works s (endHeldByPower t) := by
  unfold Machine.endHeldByPower
  split
  · exact h.note (duty_dropWrite t .power)
  · exact h.note (duty_dropWrite t .power)
  · exact h.clearSyncFlags.note (duty_completeQuiet _)
  · exact h

theorem Works.powerEntry (h : Works s t) : Works s (powerEntry t) :=
  Works.endHeldByPower (h.note ((duty_flowAfterRelease _ _).trans (duty_breakAll _ .power)))

theorem Works.samplePwarn (low : Bool) (h : Works s t) : Works s (samplePwarn low t) := by
  have hp : ∀ p, Works s { t with power := p } := fun _ => h.note rfl
  unfold Machine.samplePwarn
  dsimp only
  split
  · split
    · exact Works.beginAndExamine (h.note rfl)
    · exact hp _
  · split
    · exact (hp _).powerEntry
    · exact hp _

/-! ### Management writes -/

theorem Works.command (h : Works s t) (rests : t.engine.state.rests = true) (turn : Turned t u) : Works s u := by
  obtain ⟨v, hv, k⟩ := turn
  exact Works.trans (h.tail (.command rests hv)) k

theorem follows_restart (p : Phase) (i : Nat) : Follows (.faulted p i) p.restart := by
  refine .inFlight rfl (fun r => by cases p <;> nofun) fun h => .inl ?_
  cases p with
  | homing => rfl
  | _ => cases h

theorem Works.stageClear (h : Works s t) : Works s (stageClear t) := by
  have hd : (Machine.consumeHeldCommit (Machine.breakAll .clear t)).duty = t.duty :=
    (duty_consumeHeldCommit _).trans (duty_breakAll t .clear)
  unfold Machine.stageClear
  dsimp only
  generalize Machine.consumeHeldCommit (Machine.breakAll .clear t) = v at hd ⊢
  have hstate : v.engine.state = t.engine.state := congrArg Duty.state hd
  have hqueue : v.queue = t.queue := congrArg Duty.queue hd
  refine Works.examine false (Works.note (Works.queue (h.note hd) (keptRecords t) (.inr ?_) fun hf _ => ?_)
    ((duty_flowAfterRelease _ _).trans (duty_completeSync_if _ _)))
  · rw [hqueue]
    exact (keptRecords_sublist t).length_le
  · rw [hstate] at hf
    rw [hqueue, keptRecords, if_pos hf, List.head?_take, if_neg Nat.one_ne_zero]

theorem Works.ecmdWrite (code : Word) (h : Works s t) : Works s (ecmdWrite code t).2 := by
  unfold Machine.ecmdWrite
  split
  · exact h.note rfl
  · unfold holdOffCmd
    exact keep_ite (Works.beginAndExamine (h.note rfl)) h
  · unfold retryCmd
    split
    · next p i he => exact h.command (by rw [he]; rfl) (turned_enter (by rw [he]; exact follows_restart p i))
    · exact h
  · unfold abandonHeadCmd
    split
    · next i he => exact h.command (by rw [he]; rfl) (turned_abandonHead (by rw [he]; rfl))
    · exact h
  · unfold stageClearCmd
    split
    · exact h
    · exact h
    all_goals exact h.stageClear
  · unfold recoverRetryCmd
    split
    · next c discarding he =>
      cases discarding with
      | true => exact h
      | false => exact h.command (by rw [he]; rfl) (turned_startRecovery t)
    · exact h
  · unfold journalDiscardCmd
    split
    · next c discarding he =>
      cases discarding with
      | true => exact h
      | false => exact h.command (by rw [he]; rfl) (turned_goOn (e := .blocked c true) (.out rfl nofun))
    · exact h
  · exact h

theorem duty_windowWrite (i : Fin 16) (w : Window) (s : State) : (windowWrite i w s).2.duty = s.duty :=
  keep_ite (P := fun u => u.duty = s.duty) rfl (keep_ite (P := fun u => u.duty = s.duty) rfl rfl)

theorem Works.limits {v : State} (h : Works s t) (hv : v.duty = { t.duty with limits := v.limits })
    (range : t.limits.InRange → v.limits.InRange) : Works s v := h.tail (.limits hv range)

/-- A threshold write changes the limits, and then nothing that stands in `Duty` but by an examination (R49). -/
theorem Works.thresholdWrite {v : State} (h : Works s t) (hv : v.duty = { t.duty with limits := v.limits })
    (range : t.limits.InRange → v.limits.InRange) : Works s (Machine.examine false (Machine.flowRetest v)) :=
  Works.examine false ((h.limits hv range).note (duty_flowRetest v))

theorem Works.stalllvlWrite (data : Word) (h : Works s t) : Works s (stalllvlWrite data t).2 := by
  unfold Machine.stalllvlWrite
  split
  · exact h
  · next hr =>
    obtain ⟨hle, _⟩ := not_or.mp hr
    exact h.thresholdWrite (v := { t with store := { t.store with stalllvl := data } }) rfl
      fun hl => { hl with stalllvl := Nat.le_of_not_lt hle }

theorem Works.resumelvlWrite (data : Word) (h : Works s t) : Works s (resumelvlWrite data t).2 := by
  unfold Machine.resumelvlWrite
  split
  · exact h
  · next hr =>
    rw [eq_zero_iff_toNat] at hr
    exact h.thresholdWrite (v := { t with store := { t.store with resumelvl := data } }) rfl
      fun hl => { hl with resumelvl_pos := show 1 ≤ data.toNat by omega, resumelvl := show data.toNat ≤ 511 by omega }

theorem Works.holdlimWrite (data : Word) (h : Works s t) : Works s (holdlimWrite data t).2 := by
  unfold Machine.holdlimWrite
  split
  · exact h
  · next hr => exact h.limits rfl fun hl => { hl with holdlim := Nat.le_of_not_lt hr }

theorem Works.arrtoWrite (data : Word) (h : Works s t) : Works s (arrtoWrite data t).2 := by
  unfold Machine.arrtoWrite
  split
  · exact h
  · next hr => exact h.limits rfl fun hl => { hl with arrto := Nat.le_of_not_lt hr }

theorem Works.starveWrite (data : Word) (h : Works s t) : Works s (starveWrite data t).2 := by
  unfold Machine.starveWrite
  split
  · exact h
  · next hr =>
    rw [eq_zero_iff_toNat] at hr
    exact h.limits rfl
      fun hl => { hl with starve_pos := show 1 ≤ data.toNat by omega, starve := show data.toNat ≤ 15 by omega }

theorem duty_winbaseWrite (i : Fin 16) (data : Word) (s : State) : (winbaseWrite i data s).2.duty = s.duty := by
  unfold winbaseWrite
  split
  · rfl
  · exact duty_windowWrite i _ s

theorem Works.hactWrite (data : Word) (h : Works s t) : Works s (hactWrite data t).2 := by
  unfold Machine.hactWrite
  split
  · exact h
  · exact keep_ite h (h.note rfl)

theorem Works.defactWrite (data : Word) (h : Works s t) : Works s (defactWrite data t).2 := by
  unfold Machine.defactWrite
  split
  · exact h
  · exact keep_ite h (h.note rfl)

theorem Works.writeReg (r : Reg) (data : Word) (h : Works s t) : Works s (writeReg r data t).2 := by
  cases r with
  | ecmd => exact h.ecmdWrite data
  | stalllvl => exact h.stalllvlWrite data
  | resumelvl => exact h.resumelvlWrite data
  | holdlim => exact h.holdlimWrite data
  | arrto => exact h.arrtoWrite data
  | starve => exact h.starveWrite data
  | agechain | hset | agerld => exact keep_ite h (h.note rfl)
  | hact => exact h.hactWrite data
  | defact => exact h.defactWrite data
  | jaddr => exact keep_ite h (keep_ite h (Works.postRequest _ (h.note rfl) nofun))
  | ceil => exact keep_ite h (keep_ite h (h.note rfl))
  | cchi => exact keep_ite h (keep_ite h (keep_ite h (h.note rfl)))
  | winbase i => exact h.note (duty_winbaseWrite i data t)
  | winlim i => exact h.note (duty_windowWrite i _ t)
  | dctl d =>
    obtain e | ⟨act, e | ⟨_, e⟩ | ⟨_, e⟩⟩ := dctlWrite_cases d data t <;> exact (congrArg (Works s) e).mpr (h.note rfl)
  | _ => exact h.note rfl

/-! ### Invariants -/

/-- A predicate that every register write keeps, that what follows an end of an access or none keeps, and that a reset
meets, is kept by every step. The chain of moves is there for a predicate that says something of addresses. -/
theorem keptByCourses_of_works {P : State → Prop} (works : ∀ s t, Works s t → Moves s t → P s → P t)
    (ends : ∀ s u t, AccessEnd s u → Works u t → Moves s t → P s → P t)
    (reset : ∀ st held array pending, P (requestEngine (State.cold st held array pending)))
    (writeReg : ∀ s r data, P s → P (writeReg r data s).2) : KeptByCourses P := by
  have endsThen : ∀ s t, EndsThen s t → Moves s t → P s → P t := by
    rintro s t (h | ⟨u, hu, h⟩)
    · exact works s t h
    · exact ends s u t hu h
  have expiry : ∀ s e, P s → P (takeExpiry s e) := fun s e =>
    endsThen _ _ (endsThen_takeExpiry e s) ((Moves.refl s).takeExpiry e)
  have settle : ∀ before s, P s → P (settle before s) := fun before s =>
    works _ _ (Works.settle before (.refl s)) ((Moves.refl s).settle before)
  refine ⟨fun s m => ?_, fun s l => ?_, fun s e hs => ?_, settle, reset, writeReg⟩
  · exact works _ _ (Works.note (.refl s) rfl) ((Moves.refl s).note rfl rfl rfl rfl rfl)
  · exact works _ _ (Works.note (.refl s) rfl) ((Moves.refl s).note rfl rfl rfl rfl rfl)
  · cases e with
    | hostArrival bus => exact works _ _ (Works.seeArrival bus (.refl s)) ((Moves.refl s).seeArrival bus) hs
    | hostReturnIdle =>
      exact works _ _ (Works.note (.refl s) (duty_seeReturnIdle s)) (Moves.refl s).seeReturnIdle hs
    | hostStrobesEndEarly =>
      exact works _ _ (Works.note (.refl s) (duty_seeStrobesEnd s)) (Moves.refl s).seeStrobesEnd hs
    | holdExpiry => exact expiry s .hold hs
    | arrayComplete ad =>
      exact settle _ _ (endsThen _ _ (endsThen_accessComplete ad s) ((Moves.refl s).accessComplete ad) hs)
    | arrayTimeout left => exact expiry s (.array left) hs
    | tick low early =>
      have hcounts := works _ _ (Works.tickCounts (.refl s)) (Moves.refl s).tickCounts hs
      have hfold : P (early.foldl takeExpiry (tickCounts s)) :=
        List.foldlRecOn early _ hcounts fun t ht e _ => expiry t e ht
      exact settle _ _ (works _ _ (Works.samplePwarn low (.refl _)) ((Moves.refl _).samplePwarn low) hfold)
    | ageExpiry d => exact expiry s (.age d) hs

/-- The same for a predicate that each change keeps by itself. -/
theorem keptByCourses_of_work {P : State → Prop} (work : ∀ s t, Work s t → P s → P t)
    (ends : ∀ s t, AccessEnd s t → P s → P t)
    (reset : ∀ st held array pending, P (requestEngine (State.cold st held array pending))) : KeptByCourses P :=
  keptByCourses_of_works (fun _ _ h _ => h.keep work) (fun _ _ _ hu h _ hs => h.keep work (ends _ _ hu hs)) reset
    fun s r data => (Works.writeReg r data (.refl s)).keep work

end Turns

end Sys2Proof.Machine
end

section
/-! PROOFS. Every step keeps the queue at 32 groups, the limits in their ranges, and the engine to the one access that its
state asks for. -/

namespace Sys2Proof.Machine

section Invariants

variable {s t : State}

/-! ### What a turn of the engine leaves -/

theorem limits_requestEngine (s : State) : (requestEngine s).limits = s.limits := by
  unfold requestEngine
  split
  · next r _ =>
    obtain ⟨harrto, hstarve, _⟩ := Port.post_limits .engine r s.port
    simp only [State.limits, postRequest, harrto, hstarve]
  · rfl

theorem starveCount_requestEngine (h : s.port.starveCount ≤ 15) : (requestEngine s).port.starveCount ≤ 15 := by
  unfold requestEngine
  split
  · exact Port.post_starveCount .engine _ h
  · exact h

/-- The engine goes on: its state and the array port change alone. -/
theorem goOn_eq (e : EngineState) (s : State) :
    goOn e s = { s with engine := { s.engine with state := e }, port := (goOn e s).port } :=
  requestEngine_eq (setEngine e s)

/-- What a turn leaves of the straps, the array, the limits, the starvation count and the queue. -/
structure TurnFrame (s t : State) : Prop where
  straps : t.straps = s.straps
  array : t.array = s.array
  limits : t.limits = s.limits
  starveCount : s.port.starveCount ≤ 15 → t.port.starveCount ≤ 15
  length : t.queue.length ≤ s.queue.length
  state : Follows s.engine.state t.engine.state

theorem EngineTurn.frame (h : EngineTurn s t) : TurnFrame s t := by
  cases h with
  | @goOn u e hu next =>
    have hq : u.queue = s.queue := congrArg Duty.queue hu
    have hcount : u.port.starveCount = s.port.starveCount := congrArg Duty.starveCount hu
    have hlimits : (Machine.goOn e u).limits = s.limits := (limits_requestEngine _).trans (congrArg Duty.limits hu)
    refine ⟨?_, ?_, hlimits, fun hs => ?_, ?_, ?_⟩
    · rw [goOn_eq]
      exact congrArg Duty.straps hu
    · rw [goOn_eq]
      exact congrArg Duty.array hu
    · exact starveCount_requestEngine (s := setEngine e u) (hcount.le.trans hs)
    · rw [goOn_eq]
      exact (congrArg List.length hq).le
    · rw [goOn_eq]
      exact next
  | rest ht _ next length _ =>
    have hcount : t.port.starveCount = s.port.starveCount := congrArg Duty.starveCount ht
    exact ⟨congrArg Duty.straps ht, congrArg Duty.array ht, congrArg Duty.limits ht, hcount.le.trans, length, next⟩
  | stuck _ _ => exact ⟨rfl, rfl, rfl, id, Nat.le_refl _, ⟨.inl, id, id⟩⟩

/-- The begin of the head group: the engine's state and the array port change alone (R96). -/
theorem beginHead_eq (s : State) : beginHead s = { s with
    engine := { s.engine with state := firstPhase s.straps }, port := (beginHead s).port } :=
  requestEngine_eq (setEngine (firstPhase s.straps) s)

/-! ### The queue -/

theorem queueBounded_work (h : Work s t) (hs : queueBounded s) : queueBounded t := by
  unfold queueBounded at hs ⊢
  cases h with
  | note h => exact (congrArg List.length (congrArg Duty.queue h)).trans_le hs
  | limits h _ => exact (congrArg List.length (congrArg Duty.queue h)).trans_le hs
  | queue q length _ => exact length.elim id fun hl => hl.trans hs
  | port => exact hs
  | begin _ =>
    rw [beginHead_eq]
    exact hs
  | command _ turn => exact turn.frame.length.trans hs

theorem queueBounded_accessEnd (h : AccessEnd s t) (hs : queueBounded s) : queueBounded t := by
  cases h with
  | other _ _ _ => exact hs
  | engine _ _ _ turn _ => exact turn.frame.length.trans hs

theorem queueBounded_keptByCourses : KeptByCourses queueBounded := by
  refine keptByCourses_of_work (fun _ _ => queueBounded_work) (fun _ _ => queueBounded_accessEnd)
    fun st held array pending => ?_
  unfold queueBounded
  rw [requestEngine_eq]
  exact Nat.zero_le _

/-! ### The limits -/

/-- The limits and the starvation count are in their ranges. -/
structure LimitsKept (s : State) : Prop where
  range : s.limits.InRange
  count : s.port.starveCount ≤ 15

theorem limitsSound_iff (s : State) : limitsSound s ↔ LimitsKept s := by
  refine ⟨fun ⟨h1, h2, h3, h4, h5, h6, h7, h8⟩ => ⟨⟨h1, h2, h3, h4, h5, h6, h7⟩, h8⟩, fun ⟨h, hc⟩ => ?_⟩
  exact ⟨h.stalllvl, h.resumelvl_pos, h.resumelvl, h.holdlim, h.arrto, h.starve_pos, h.starve, hc⟩

theorem LimitsKept.turn (h : LimitsKept s) (ht : TurnFrame s t) : LimitsKept t :=
  ⟨ht.limits ▸ h.range, ht.starveCount h.count⟩

theorem LimitsKept.finish (m : List Host.Cell) (h : LimitsKept s) :
    LimitsKept { s with array := m, port := s.port.finish } := by
  obtain ⟨harrto, hstarve, _⟩ := Port.finish_limits s.port
  refine ⟨?_, Port.arbitrate_starveCount _⟩
  have hl : State.limits { s with array := m, port := s.port.finish } = s.limits := by
    simp only [State.limits, harrto, hstarve]
  exact hl ▸ h.range

theorem LimitsKept.work (h : Work s t) (hs : LimitsKept s) : LimitsKept t := by
  cases h with
  | note h =>
    have hl : t.limits = s.limits := congrArg Duty.limits h
    have hc : t.port.starveCount = s.port.starveCount := congrArg Duty.starveCount h
    exact ⟨hl ▸ hs.range, hc.le.trans hs.count⟩
  | limits h range =>
    have hc : t.port.starveCount = s.port.starveCount := congrArg Duty.starveCount h
    exact ⟨range hs.range, hc.le.trans hs.count⟩
  | queue _ _ _ => exact ⟨hs.range, hs.count⟩
  | port p _ arrto starve count =>
    refine ⟨?_, count hs.count⟩
    have hl : State.limits { s with port := p } = s.limits := by simp only [State.limits, arrto, starve]
    exact hl ▸ hs.range
  | begin _ =>
    have hl : (beginHead s).limits = s.limits := limits_requestEngine _
    exact ⟨hl ▸ hs.range, starveCount_requestEngine (s := setEngine _ s) hs.count⟩
  | command _ turn => exact hs.turn turn.frame

theorem LimitsKept.accessEnd (h : AccessEnd s t) (hs : LimitsKept s) : LimitsKept t := by
  cases h with
  | other _ _ _ => exact hs.finish _
  | engine _ _ _ turn _ => exact (hs.finish _).turn turn.frame

theorem limitsKept_keptByCourses : KeptByCourses LimitsKept := by
  refine keptByCourses_of_work (fun _ _ => LimitsKept.work) (fun _ _ => LimitsKept.accessEnd)
    fun st held array pending => ?_
  have hl : (requestEngine (State.cold st held array pending)).limits = ⟨16#16, 48#16, 200#16, 50#16, 4#16⟩ :=
    limits_requestEngine _
  refine ⟨?_, starveCount_requestEngine (s := State.cold st held array pending) (Nat.zero_le _)⟩
  rw [hl]
  constructor <;> decide

end Invariants

/-- Settles O52: a group joins the queue where a slot is free alone, every write of a limit is checked for its range, and
an arbitration holds the starvation count at 15. -/
theorem stepsKeepQueueAndLimits : Obligations.StepsKeepQueueAndLimits := by
  intro s t h
  refine ⟨queueBounded_keptByCourses.step h, fun hs => ?_⟩
  exact (limitsSound_iff t).mpr (limitsKept_keptByCourses.step h ((limitsSound_iff s).mp hs))

section Invariants

variable {s t : State}

/-! ### The engine's access -/

/-- `engineSound`, with names. -/
structure SoundEngine (s : State) : Prop where
  flight : s.engine.state.inFlight = true → s.queue ≠ []
  access : EngineHas s.port (engineRequest s)

theorem engineSound_iff (s : State) : engineSound s ↔ SoundEngine s :=
  ⟨fun ⟨h1, h2, h3⟩ => ⟨h1, h2, h3⟩, fun ⟨h1, h2, h3⟩ => ⟨h1, h2, h3⟩⟩

/-- An engine that had no access at the port has the one that it requests. -/
theorem soundEngine_requestEngine (hp : EngineHas s.port none) (flight : s.engine.state.inFlight = true → s.queue ≠ []) :
    SoundEngine (requestEngine s) := by
  refine ⟨?_, ?_⟩
  · rw [requestEngine_eq]
    exact flight
  · rw [engineRequest_requestEngine]
    unfold requestEngine
    cases engineRequest s with
    | none => exact hp
    | some r => exact hp.post r

/-- A turn of an engine that has no access at the port. -/
theorem EngineTurn.sound (h : EngineTurn s t) (hp : EngineHas s.port none)
    (flight : s.engine.state.inFlight = true → s.queue ≠ []) : SoundEngine t := by
  cases h with
  | @goOn u e hu next =>
    have hq : u.queue = s.queue := congrArg Duty.queue hu
    refine soundEngine_requestEngine (s := setEngine e u)
      (hp.congr (congrArg Duty.access hu) (congrArg Duty.engineReq hu)) fun he => ?_
    exact fun hnil => flight (next.flight he) (hq.symm.trans hnil)
  | rest ht rests next _ hq =>
    refine ⟨fun he => (hq he).symm ▸ flight (next.flight he), ?_⟩
    rw [engineRequest_of_rests rests]
    exact hp.congr (congrArg Duty.access ht) (congrArg Duty.engineReq ht)
  | stuck hf hq => exact absurd hq (flight hf)

/-- What leaves the engine's state, the head of the queue and the engine's access leaves the engine sound. -/
theorem SoundEngine.congr (h : SoundEngine s) (straps : t.straps = s.straps)
    (state : t.engine.state = s.engine.state) (queue : t.queue = s.queue)
    (access : EngineHas s.port (engineRequest s) → EngineHas t.port (engineRequest s)) : SoundEngine t := by
  refine ⟨by rw [state, queue]; exact h.flight, ?_⟩
  rw [engineRequest_congr straps state fun _ => by rw [queue]]
  exact access h.access

theorem SoundEngine.queue {q : List GroupRecord} (h : SoundEngine s)
    (head : s.engine.state.inFlight = true → s.queue ≠ [] →
      q.head?.map GroupRecord.unsynced = s.queue.head?.map GroupRecord.unsynced) : SoundEngine { s with queue := q } := by
  refine ⟨fun hf hnil => ?_, ?_⟩
  · have hhead := head hf (h.flight hf)
    rw [show q = [] from hnil] at hhead
    exact h.flight hf (by simpa using hhead.symm)
  · rw [engineRequest_congr (s := s) (t := { s with queue := q }) rfl rfl fun hf => head hf (h.flight hf)]
    exact h.access

theorem queue_ne_nil_of_canBegin (h : canBegin s = true) : s.queue ≠ [] := by
  simp only [canBegin, Bool.and_eq_true, Bool.not_eq_true', List.isEmpty_eq_false_iff] at h
  obtain ⟨⟨_, hq⟩, _⟩ := h
  exact hq

theorem SoundEngine.work (h : Work s t) (hs : SoundEngine s) : SoundEngine t := by
  cases h with
  | note h =>
    exact hs.congr (congrArg Duty.straps h) (congrArg Duty.state h) (congrArg Duty.queue h)
      fun ha => ha.congr (congrArg Duty.access h) (congrArg Duty.engineReq h)
  | limits h _ =>
    exact hs.congr (congrArg Duty.straps h) (congrArg Duty.state h) (congrArg Duty.queue h)
      fun ha => ha.congr (congrArg Duty.access h) (congrArg Duty.engineReq h)
  | queue q _ head => exact hs.queue head
  | port p engine _ _ _ => exact hs.congr rfl rfl rfl (engine _)
  | begin hc =>
    have hnone : engineRequest s = none := engineRequest_of_rests (by rw [idle_of_canBegin hc]; rfl)
    exact soundEngine_requestEngine (s := setEngine _ s) (hnone ▸ hs.access) fun _ => queue_ne_nil_of_canBegin (s := s) hc
  | command rests turn => exact turn.sound (engineRequest_of_rests rests ▸ hs.access) hs.flight

theorem SoundEngine.accessEnd (h : AccessEnd s t) (hs : SoundEngine s) : SoundEngine t := by
  cases h with
  | other ha hw _ => exact hs.congr rfl rfl rfl fun h => h.finish_other ha hw
  | engine ha hw _ turn _ => exact turn.sound (hs.access.finish ha hw) hs.flight

/-- A reset leaves the engine in IDLE, or at the beginning of recovery (R113, R119). -/
theorem state_cold (st : Straps) : (Engine.cold st).state = .idle ∨ (Engine.cold st).state = .recovering .marker := by
  unfold Engine.cold
  dsimp only
  split
  · exact .inl rfl
  · exact .inr rfl

theorem soundEngine_cold (st : Straps) (held : Bool) (array : List Host.Cell) (pending : List Instr) :
    SoundEngine (requestEngine (State.cold st held array pending)) := by
  refine soundEngine_requestEngine ⟨rfl, nofun⟩ fun h => ?_
  have h : (Engine.cold st).state.inFlight = true := h
  obtain he | he := state_cold st <;> rw [he] at h <;> cases h

theorem soundEngine_keptByCourses : KeptByCourses SoundEngine :=
  keptByCourses_of_work (fun _ _ => SoundEngine.work) (fun _ _ => SoundEngine.accessEnd) soundEngine_cold

end Invariants

/-- Settles O56: the engine requests an access where it has none at the port alone, the other requesters leave it, and the
head of the queue stays while it is in flight. -/
theorem stepsKeepEngineSound : Obligations.StepsKeepEngineSound := by
  intro s t hs h
  exact (engineSound_iff t).mpr (soundEngine_keptByCourses.step h ((engineSound_iff s).mp hs))

end Sys2Proof.Machine
end

section
/-! PROOFS. Word 0 of the journal in the array while a group goes home, and the header that a replay holds. -/

namespace Sys2Proof.Machine

/-! ### One word of the array -/

/-- A byte other than what an unlisted cell reads as reads back, whatever the form of the contents. -/
theorem Memory.get_set_same_of_ne_blank (m : List Host.Cell) (n : Nat) {b : Byte} (hb : b ≠ blankLane) :
    Memory.get (Memory.set m n b) n = b := by
  have hcons : ∀ m' : List Host.Cell, Memory.get (Memory.cons n b m') n = b := fun m' => by
    rw [Memory.cons, if_neg hb, Memory.get, if_pos rfl]
  induction m with
  | nil => exact hcons []
  | cons c rest ih =>
    obtain ⟨k, v⟩ := c
    rw [Memory.set]
    split
    · exact hcons _
    · split
      · exact hcons _
      · next hk => rw [Memory.get, if_neg fun e : k = n => hk e.symm, ih]

theorem laneCell_ne {a b : Addr} (h : a ≠ b) (x y : Bool) : laneCell a x ≠ laneCell b y := by
  have hne : a.toNat ≠ b.toNat := fun e => h (BitVec.eq_of_toNat_eq e)
  unfold laneCell
  cases x <;> cases y <;> simp only [Bool.toNat_false, Bool.toNat_true] <;> omega

/-- A store leaves the words at other addresses. -/
theorem Memory.word_store_of_ne (m : List Host.Cell) {a b : Addr} (l : Lanes) (w : Word) (h : b ≠ a) :
    Memory.word (Memory.store m a l w) b = Memory.word m b := by
  have hget : ∀ y, Memory.get (Memory.store m a l w) (laneCell b y) = Memory.get m (laneCell b y) := by
    intro y
    unfold Memory.store
    dsimp only
    split <;> split <;> simp only [Memory.get_set_of_ne _ _ (laneCell_ne h _ _)]
  rw [Memory.word, Memory.word, hget, hget]

/-- VALID, stored in both lanes, reads back: neither of its bytes is what an unlisted cell reads as. -/
theorem Memory.word_store_validMarker (m : List Host.Cell) (a : Addr) :
    Memory.word (Memory.store m a Lanes.both Config.validMarker) a = Config.validMarker := by
  have hne : laneCell a false ≠ laneCell a true := by
    simp [laneCell]
  unfold Memory.word Memory.store
  simp only [Lanes.both, if_true]
  rw [Memory.get_set_same_of_ne_blank _ _ (by decide), Memory.get_set_of_ne _ _ hne,
    Memory.get_set_same_of_ne_blank _ _ (by decide)]
  decide

/-! ### The journal base -/

theorem toNat_journalAddr_zero {st : Straps} (h : journalOn st = true) : (journalAddr st 0).toNat = journalBase st := by
  have hwords : arrayWords st ≤ 2 ^ 20 := by
    have hasz : st.asz.toNat ≤ 3 := Nat.le_of_lt_succ st.asz.isLt
    calc arrayWords st ≤ 0x20000 * 2 ^ 3 := Nat.mul_le_mul_left _ (Nat.pow_le_pow_right (by decide) hasz)
      _ = 2 ^ 20 := by decide
  have hjournal : 8 ≤ journalWords st := by
    rw [journalWords, if_pos h]
    exact Nat.le_add_right _ _
  rw [journalAddr, BitVec.toNat_ofNat, Nat.add_zero, journalBase]
  omega

theorem ne_journalAddr_zero {st : Straps} {a : Addr} (h : journalOn st = true) (ha : a.toNat < journalBase st) :
    journalAddr st 0 ≠ a := fun e => by
  rw [← e, toNat_journalAddr_zero h] at ha
  exact Nat.lt_irrefl _ ha

/-- A write below the base leaves word 0 of the journal, however it ends. -/
theorem word_of_storedBy {st : Straps} {a : ArrayAccess} {m m' : List Host.Cell} (h : journalOn st = true)
    (hb : writesBelowBase st a.request) (hm : storedBy a m m') :
    Memory.word m' (journalAddr st 0) = Memory.word m (journalAddr st 0) := by
  obtain rfl | ⟨w, hk, rfl⟩ := hm
  · rfl
  · exact Memory.word_store_of_ne m _ w (ne_journalAddr_zero h (hb hk))

/-! ### What the engine writes -/

section Guard

variable {s t : State}

/-- Every record of a group goes home to one of its entries' addresses, or to its commit cell. -/
theorem AddressesBelow.record {g : GroupRecord} {r : JournalRecord} (h : AddressesBelow s) (hg : g ∈ s.queue)
    (hr : r ∈ g.records) : r.addr.toNat < journalBase s.straps := by
  obtain ⟨hcell, hentries⟩ := h.queue g hg
  obtain hr | hr := List.mem_append.mp hr
  · obtain ⟨e, he, rfl⟩ := List.mem_map.mp hr
    exact hentries e he
  · rw [List.mem_singleton.mp hr]
    exact hcell

/-- A home write goes below the base. -/
theorem AddressesBelow.homeWrite {i : Nat} {q : Request} (h : AddressesBelow s) (he : s.engine.state = .homing i)
    (hq : engineRequest s = some q) : writesBelowBase s.straps q := by
  rw [engineRequest, he] at hq
  obtain ⟨g, hg, hq⟩ := Option.bind_eq_some_iff.mp hq
  obtain ⟨r, hr, rfl⟩ := Option.map_eq_some_iff.mp hq
  exact fun _ => h.record (List.mem_of_mem_head? hg) (List.mem_of_getElem? hr)

/-- The write of header word 0 is the write of VALID to the journal base (R98). -/
theorem engineRequest_marking_zero {q : Request} (he : s.engine.state = .marking 0) (hq : engineRequest s = some q) :
    q = writeRequest (journalAddr s.straps 0) Lanes.both Config.validMarker := by
  rw [engineRequest, he] at hq
  obtain ⟨g, _, rfl⟩ := Option.map_eq_some_iff.mp hq
  rfl

/-- `homingHasValidJournal` with what recovery holds before it replays. -/
structure JournalGuard (s : State) : Prop where
  home : journalOn s.straps = true → s.engine.state.homes = true →
    Memory.word s.array (journalAddr s.straps 0) = Config.validMarker
  marked : s.engine.state.marked

theorem homes_iff (e : EngineState) : e.homes = true ↔ (∃ i, e = .homing i) ∨ ∃ i, e = .faulted .homing i := by
  cases e with
  | homing i => simp [EngineState.homes]
  | faulted p i => cases p <;> simp [EngineState.homes]
  | _ => simp [EngineState.homes]

theorem JournalGuard.homingHasValidJournal (h : JournalGuard s) : homingHasValidJournal s :=
  ⟨fun hon he => h.home hon ((homes_iff _).mpr he), fun ws _ he => h.marked _ ws he rfl⟩

/-- Sound recovery holds header words that begin with VALID (R120). -/
theorem journalGuard_of_sound (hr : recoverySound s) (h : homingHasValidJournal s) : JournalGuard s := by
  obtain ⟨_, _, hr⟩ := hr
  obtain ⟨hhome, _⟩ := h
  refine ⟨fun hon he => hhome hon ((homes_iff _).mp he), fun r ws he hw => ?_⟩
  have hholds := hr r he
  cases r with
  | marker => cases hw
  | header => cases hw; exact hholds.2.2
  | records => cases hw; exact hholds.2.1
  | replay => cases hw; exact hholds.2.1
  | finish => cases hw; exact hholds.2.1

/-- What leaves the straps, the array and the engine's state leaves the guard. -/
theorem JournalGuard.congr (h : JournalGuard s) (straps : t.straps = s.straps) (array : t.array = s.array)
    (state : t.engine.state = s.engine.state) : JournalGuard t := by
  refine ⟨?_, ?_⟩
  · rw [straps, array, state]
    exact h.home
  · rw [state]
    exact h.marked

/-- A turn that brings no write home. -/
theorem JournalGuard.turn (h : JournalGuard s) (ht : TurnFrame s t) (hs : s.engine.state ≠ .marking 0) :
    JournalGuard t := by
  refine ⟨fun hon hh => ?_, ht.state.marked h.marked⟩
  rw [ht.array, ht.straps]
  exact h.home (ht.straps ▸ hon) ((ht.state.homes hh).resolve_right hs)

theorem JournalGuard.work (h : Work s t) (hs : JournalGuard s) : JournalGuard t := by
  cases h with
  | note h => exact hs.congr (congrArg Duty.straps h) (congrArg Duty.array h) (congrArg Duty.state h)
  | limits h _ => exact hs.congr (congrArg Duty.straps h) (congrArg Duty.array h) (congrArg Duty.state h)
  | queue _ _ _ => exact hs.congr rfl rfl rfl
  | port _ _ _ _ _ => exact hs.congr rfl rfl rfl
  | begin _ =>
    rw [beginHead_eq]
    refine ⟨fun hon hh => ?_, marked_of_not_recovering fun r hr => ?_⟩
    · have hh : (firstPhase s.straps).homes = true := hh
      rw [firstPhase, if_pos (show journalOn s.straps = true from hon)] at hh
      cases hh
    · have hr : firstPhase s.straps = .recovering r := hr
      unfold firstPhase at hr
      split at hr <;> cases hr
  | command rests turn => exact hs.turn turn.frame fun he => by rw [he] at rests; cases rests

/-- An end of an access leaves word 0, unless the engine wrote it: then it is VALID. -/
theorem JournalGuard.accessEnd (h : AccessEnd s t) (hs : JournalGuard s) (he : SoundEngine s) (ha : AddressesBelow s) :
    JournalGuard t := by
  cases h with
  | @other a m haccess hw hm =>
    refine ⟨fun hon hh => ?_, hs.marked⟩
    have hb := ha.port _ _ hw (.inl ⟨a, haccess, rfl, rfl⟩)
    exact (word_of_storedBy hon hb hm).trans (hs.home hon hh)
  | @engine a m t haccess hw hm turn valid =>
    have hf := turn.frame
    have hreq := he.access.eq_access haccess hw
    refine ⟨fun hon hh => ?_, hf.state.marked hs.marked⟩
    have hon : journalOn s.straps = true := hf.straps ▸ hon
    rw [hf.array, hf.straps]
    show Memory.word m (journalAddr s.straps 0) = _
    obtain hhome | hmark := hf.state.homes hh
    · obtain ⟨i, hi⟩ | ⟨i, hi⟩ := (homes_iff _).mp hhome
      · exact (word_of_storedBy hon (ha.homeWrite hi hreq) hm).trans (hs.home hon hhome)
      · rw [engineRequest_of_rests (by rw [hi]; rfl)] at hreq
        cases hreq
    · have hq := engineRequest_marking_zero hmark hreq
      rw [valid hmark hh (by rw [hq]; rfl), hq]
      exact Memory.word_store_validMarker _ _

theorem journalGuard_cold (st : Straps) (held : Bool) (array : List Host.Cell) (pending : List Instr) :
    JournalGuard (requestEngine (State.cold st held array pending)) := by
  have hout : (Engine.cold st).state.homes ≠ true ∧ (Engine.cold st).state.marked := by
    obtain he | he := state_cold st <;> rw [he]
    · exact ⟨nofun, marked_of_not_recovering nofun⟩
    · exact ⟨nofun, fun r ws hr hw => by cases hr; cases hw⟩
  obtain ⟨hhome, hmarked⟩ := hout
  rw [requestEngine_eq]
  exact ⟨fun _ hh => absurd hh hhome, hmarked⟩

/-- What every step keeps of the journal, with what it depends on. -/
structure JournalKept (s : State) : Prop where
  engine : SoundEngine s
  addresses : AddressesBelow s
  guard : JournalGuard s

theorem journalKept_keptByCourses : KeptByCourses JournalKept := by
  refine keptByCourses_of_works (fun s t h m hs => ?_) (fun s u t hu h m hs => ?_) (fun st held array pending => ?_)
    fun s r data hs => ?_
  · exact ⟨h.keep (fun _ _ => SoundEngine.work) hs.engine, hs.addresses.moves m,
      h.keep (fun _ _ => JournalGuard.work) hs.guard⟩
  · exact ⟨h.keep (fun _ _ => SoundEngine.work) (hs.engine.accessEnd hu), hs.addresses.moves m,
      h.keep (fun _ _ => JournalGuard.work) (hs.guard.accessEnd hu hs.engine hs.addresses)⟩
  · exact ⟨soundEngine_cold st held array pending, addressesBelow_keptByCourses.reset st held array pending,
      journalGuard_cold st held array pending⟩
  · have hw := Works.writeReg r data (.refl s)
    exact ⟨hw.keep (fun _ _ => SoundEngine.work) hs.engine, hs.addresses.writeReg r data,
      hw.keep (fun _ _ => JournalGuard.work) hs.guard⟩

end Guard

/-- Settles O58: the engine goes on to write home when the write of VALID to word 0 has ended, every write of the others and
every home write goes below the base, and recovery goes on from a word 0 that it has read as VALID. -/
theorem homeWritesOnlyUnderValidJournal : Obligations.HomeWritesOnlyUnderValidJournal := by
  intro s t he hr ha hh h
  have hs : JournalKept s := ⟨(engineSound_iff s).mp he, (addressesSound_iff s).mp ha, journalGuard_of_sound hr hh⟩
  exact (journalKept_keptByCourses.step h hs).guard.homingHasValidJournal

end Sys2Proof.Machine
end

section
/-! PROOFS. The course of an apply: what the engine writes at each place, and what the completion of each write leads to. -/

namespace Sys2Proof.Machine

/-! ### The words and the records of a group -/

theorem JournalRecord.length_words (r : JournalRecord) : r.words.length = 3 := rfl

/-- Word w of record i stands at place 3i + w of the record words (R116). -/
theorem wordAt_flatMap_words {rs : List JournalRecord} {i w : Nat} {r : JournalRecord} (hr : rs[i]? = some r)
    (hw : w < 3) : wordAt (rs.flatMap JournalRecord.words) (3 * i + w) = r.words.getD w 0#16 := by
  induction rs generalizing i with
  | nil => cases hr
  | cons x xs ih =>
    rw [List.flatMap_cons, wordAt]
    cases i with
    | zero =>
      cases hr
      rw [Nat.mul_zero, Nat.zero_add, List.getD_append _ _ _ _ hw]
    | succ i =>
      rw [List.getD_append_right _ _ _ _ (by rw [x.length_words]; omega), x.length_words,
        show 3 * (i + 1) + w - 3 = 3 * i + w by omega]
      exact ih hr

theorem GroupRecord.length_records (g : GroupRecord) : g.records.length = g.entries.length + 1 := by
  rw [GroupRecord.records, List.length_append, List.length_map, List.length_singleton]

theorem GroupRecord.records_of_le {g : GroupRecord} {i : Nat} (h : i ≤ g.entries.length) :
    ∃ r, g.records[i]? = some r :=
  ⟨_, List.getElem?_eq_getElem (by rw [g.length_records]; exact Nat.lt_succ_of_le h)⟩

/-- The entries come first, in arrival order, with the tag flag clear (R97). -/
theorem GroupRecord.records_entry {g : GroupRecord} {i : Nat} {e : Entry} (h : g.entries[i]? = some e) :
    g.records[i]? = some (entryRecord e) := by
  have hlt : i < (g.entries.map entryRecord).length := by
    rw [List.length_map]
    exact (List.getElem?_eq_some_iff.mp h).1
  rw [GroupRecord.records, List.getElem?_append_left hlt, List.getElem?_map, h]
  rfl

theorem GroupRecord.records_tag (g : GroupRecord) : g.records[g.entries.length]? = some g.tagRecord := by
  rw [GroupRecord.records, List.getElem?_append_right (List.length_map _).le, List.length_map, Nat.sub_self]
  rfl

section Apply

variable {s : State} {g : GroupRecord} {rest : List GroupRecord}

/-! ### The access at each place -/

theorem engineRequest_copying {i w : Nat} (hq : s.queue = g :: rest) (he : s.engine.state = .copying i w) :
    engineRequest s = some (journalWrite s.straps (8 + 3 * i + w) (wordAt g.words (3 * i + w))) := by
  rw [engineRequest, he, hq]
  rfl

theorem engineRequest_marking {k : Nat} (hq : s.queue = g :: rest) (he : s.engine.state = .marking k) :
    engineRequest s = some (journalWrite s.straps k (wordAt g.header k)) := by
  rw [engineRequest, he, hq]
  rfl

theorem engineRequest_homing {i : Nat} {r : JournalRecord} (hq : s.queue = g :: rest) (he : s.engine.state = .homing i)
    (hr : g.records[i]? = some r) : engineRequest s = some (homeWrite r) := by
  rw [engineRequest, he, hq]
  show Option.map homeWrite (g.records[i]?) = _
  rw [hr]
  rfl

theorem engineRequest_clearing (he : s.engine.state = .clearing) :
    engineRequest s = some (journalWrite s.straps 0 Config.emptyMarker) := by
  rw [engineRequest, he]

/-- Every access of an apply is a write (R97 to R100). -/
theorem kind_of_inFlight {q : Request} (hf : s.engine.state.inFlight = true) (h : engineRequest s = some q) :
    q.kind = .write := by
  unfold engineRequest at h
  split at h
  · next he => rw [he] at hf; cases hf
  · next he => rw [he] at hf; cases hf
  · cases h
  · obtain ⟨_, _, rfl⟩ := Option.map_eq_some_iff.mp h
    rfl
  · obtain ⟨_, _, rfl⟩ := Option.map_eq_some_iff.mp h
    rfl
  · obtain ⟨_, _, h⟩ := Option.bind_eq_some_iff.mp h
    obtain ⟨_, _, rfl⟩ := Option.map_eq_some_iff.mp h
    rfl
  · cases h
    rfl
  · cases h

/-! ### The step at a completion -/

/-- An access that waits goes on waiting while drain is pending (R28, R53). -/
theorem examine_of_draining {v : Engine} (p : Port) (hw : waitingSound s) (hq : s.queue ≠ [])
    (hv : v.state.stopped = false) :
    examine false { s with engine := v, port := p } = { s with engine := v, port := p } := by
  have hdrain : s.power.low = false → drainPending { s with engine := v, port := p } = true := fun hlow => by
    simp [drainPending, hq, hv, hlow]
  obtain hw | hw := hw
  · exact examine_of_noneWaiting false (s := { s with engine := v, port := p }) hw
  · unfold examine
    split
    · next x hx =>
      have hsound := hw x hx
      unfold holdSound at hsound
      split
      · next d a l w _ hk _ =>
        rw [hk] at hsound
        obtain ⟨htakes, hflow, hlow, _⟩ := hsound
        exact (examineWrite_throttled (s := { s with engine := v, port := p }) a l w hx htakes hlow hflow).1
          (hdrain hlow)
      · next d tag hk =>
        rw [hk] at hsound
        obtain ⟨htakes, _, hfull, hlow⟩ := hsound
        exact (examineCommit_full (s := { s with engine := v, port := p }) tag hx hfull htakes).1 (hdrain hlow)
      · rfl
    · rfl

/-- The engine enters its next state of an apply, and an access that waits goes on waiting. -/
theorem enter_eq_goOn {e : EngineState} (hw : waitingSound s) (hq : s.queue ≠ []) (he : e.stopped = false) :
    enter e s = goOn e s := by
  rw [enter, goOn_eq]
  exact examine_of_draining (v := { s.engine with state := e }) _ hw hq he

/-- Words, records and phases follow one another as R97 to R102 say. -/
theorem engineAccessDone_phaseAfter {e : EngineState} (w : Word) (hq : s.queue = g :: rest) (hwait : waitingSound s)
    (he : phaseAfter (journalOn s.straps) g.entries.length s.engine.state = some e) :
    engineAccessDone w s = goOn e s := by
  have hne : s.queue ≠ [] := by rw [hq]; nofun
  have hn : headCount s = g.entries.length := by rw [headCount, hq]
  have henter : ∀ e : EngineState, e.stopped = false → enter e s = goOn e s := fun _ => enter_eq_goOn hwait hne
  unfold engineAccessDone
  cases hs : s.engine.state with
  | copying i k =>
    rw [hs, phaseAfter] at he
    dsimp only
    rw [copyingDone, hn]
    by_cases hk : k < 2
    · rw [if_pos hk] at he ⊢
      cases he
      rfl
    · rw [if_neg hk] at he ⊢
      by_cases hi : i < g.entries.length
      · rw [if_pos hi] at he ⊢
        cases he
        rfl
      · rw [if_neg hi] at he ⊢
        cases he
        exact henter _ rfl
  | marking k =>
    rw [hs, phaseAfter] at he
    dsimp only
    rw [markingDone]
    by_cases h0 : k = 0
    · rw [if_pos h0] at he ⊢
      cases he
      exact henter _ rfl
    · rw [if_neg h0] at he ⊢
      by_cases h7 : k < 7
      · rw [if_pos h7] at he ⊢
        cases he
        rfl
      · rw [if_neg h7] at he ⊢
        cases he
        rfl
  | homing i =>
    rw [hs, phaseAfter] at he
    dsimp only
    rw [homingDone, hn]
    by_cases hi : i < g.entries.length
    · rw [if_pos hi] at he ⊢
      cases he
      rfl
    · rw [if_neg hi] at he ⊢
      by_cases hon : journalOn s.straps = true
      · rw [if_pos hon] at he ⊢
        cases he
        exact henter _ rfl
      · rw [if_neg hon] at he
        cases he
  | _ =>
    rw [hs] at he
    cases he

/-- The completion of a write of the engine: the write is in the array, and the engine takes its turn (R99, R133). -/
theorem accessComplete_engineWrite {a : ArrayAccess} (ad : Option Word) (ha : s.port.access = some a)
    (hw : a.requester = .engine) (hk : a.request.kind = .write) :
    ∃ w, accessComplete ad s = engineAccessDone w { s with
      array := Memory.store s.array a.request.addr a.request.lanes a.request.data, port := s.port.finish } := by
  refine ⟨ad.getD (Memory.word s.array a.request.addr), ?_⟩
  simp only [accessComplete, ha, hw, hk]

end Apply

/-- Settles O39: the engine's access is the one that its state asks for, so its end stores that write, and the next access is
requested at a port where the engine has none. -/
theorem applyStepsAndWrites : Obligations.ApplyStepsAndWrites := by
  constructor
  · intro s ad g rest a e ha hw hq hf hs hwait he
    have hsound := (engineSound_iff s).mp hs
    have hk := kind_of_inFlight hf (hsound.access.eq_access ha hw)
    obtain ⟨w, hdone⟩ := accessComplete_engineWrite ad ha hw hk
    generalize hr : ({ s with
      array := Memory.store s.array a.request.addr a.request.lanes a.request.data, port := s.port.finish } : State) = r
        at hdone
    have hgo : engineAccessDone w r = goOn e r := by
      subst hr
      exact engineAccessDone_phaseAfter (s := { s with array := _, port := s.port.finish }) w hq hwait he
    have ht : SoundEngine (goOn e r) := by
      subst hr
      exact soundEngine_requestEngine (s := setEngine e { s with array := _, port := s.port.finish })
        (hsound.access.finish ha hw) fun _ => by simp [hq]
    have heq : goOn e r = { s with
        engine := { s.engine with state := e }
        array := Memory.store s.array a.request.addr a.request.lanes a.request.data
        port := (goOn e r).port } := by
      subst hr
      exact goOn_eq e _
    refine ⟨goOn e r, ?_, heq, ht.access.outstanding⟩
    rw [exec_arrayAccessComplete, takeArdy, hdone, hgo, settle_of_same_port (by rw [heq])]
  · intro s g rest hq
    refine ⟨fun i w he hi hw => ?_, fun k he _ => engineRequest_marking hq he, fun i he hi => ?_,
      engineRequest_clearing, fun i e => g.records_entry, g.records_tag, g.length_records⟩
    · obtain ⟨r, hr⟩ := g.records_of_le hi
      refine ⟨r, hr, ?_⟩
      rw [engineRequest_copying hq he, ← wordAt_flatMap_words hr hw]
      rfl
    · obtain ⟨r, hr⟩ := g.records_of_le hi
      exact ⟨r, hr, engineRequest_homing hq he hr⟩

end Sys2Proof.Machine
end

section
/-! PROOFS. The engine commands: what is refused, and the commands with which the engine goes on: HOLD_OFF, RETRY,
RECOVER_RETRY and JOURNAL_DISCARD. -/

namespace Sys2Proof.Machine

section Commands

variable {s : State}

/-! ### Refused commands -/

theorem ecmdWrite_range {code : Word} (h : code.toNat = 0 ∨ 8 ≤ code.toNat) (s : State) :
    ecmdWrite code s = (.range, s) := by
  unfold ecmdWrite
  split <;> first | rfl | omega

theorem retryCmd_state (h : ∀ p i, s.engine.state ≠ .faulted p i) : retryCmd s = (.state, s) := by
  unfold retryCmd
  split
  · next p i he => exact absurd he (h p i)
  · rfl

theorem abandonHeadCmd_state (h : ∀ i, s.engine.state ≠ .faulted .copying i) : abandonHeadCmd s = (.state, s) := by
  unfold abandonHeadCmd
  split
  · next i he => exact absurd he (h i)
  · rfl

theorem stageClearCmd_state (h : s.engine.state.isRecovering = true ∨ s.engine.state.isBlocked = true) :
    stageClearCmd s = (.state, s) := by
  unfold stageClearCmd
  split
  · rfl
  · rfl
  all_goals
    next he =>
      rw [he] at h
      obtain h | h := h <;> cases h

theorem recoverRetryCmd_state (h : s.engine.state.isBlocked = false) : recoverRetryCmd s = (.state, s) := by
  unfold recoverRetryCmd
  split
  · next he => rw [he] at h; cases h
  · rfl

theorem journalDiscardCmd_state (h : s.engine.state.isBlocked = false) : journalDiscardCmd s = (.state, s) := by
  unfold journalDiscardCmd
  split
  · next he => rw [he] at h; cases h
  · rfl

theorem recoverRetryCmd_blocked {c : BlockCause} {b : Bool} (h : s.engine.state = .blocked c b) :
    recoverRetryCmd s = if b then (.busy, s) else (.ok, startRecovery s) := by
  rw [recoverRetryCmd, h]

theorem journalDiscardCmd_blocked {c : BlockCause} {b : Bool} (h : s.engine.state = .blocked c b) :
    journalDiscardCmd s = if b then (.busy, s) else (.ok, goOn (.blocked c true) s) := by
  rw [journalDiscardCmd, h]

/-! ### The engine goes on -/

/-- An engine that rests goes on, with the one access of its new state (R103, R134). -/
theorem soundEngine_goOn {e : EngineState} (h : SoundEngine s) (hr : s.engine.state.rests = true)
    (flight : e.inFlight = true → s.queue ≠ []) : SoundEngine (goOn e s) :=
  soundEngine_requestEngine (s := setEngine e s) (engineRequest_of_rests hr ▸ h.access) flight

/-- At its first place each phase of an apply has an access to make (R97 to R100). -/
theorem engineRequest_first (hq : s.queue ≠ []) (he : s.engine.state = .copying 0 0 ∨ s.engine.state = .marking 1
    ∨ s.engine.state = .homing 0 ∨ s.engine.state = .clearing) : engineRequest s ≠ none := by
  obtain ⟨g, rest, hq⟩ := List.exists_cons_of_ne_nil hq
  obtain he | he | he | he := he
  · rw [engineRequest_copying hq he]
    nofun
  · rw [engineRequest_marking hq he]
    nofun
  · obtain ⟨r, hr⟩ := g.records_of_le (Nat.zero_le _)
    rw [engineRequest_homing hq he hr]
    nofun
  · rw [engineRequest_clearing he]
    nofun

theorem firstPhase_cases (st : Straps) : firstPhase st = .copying 0 0 ∨ firstPhase st = .homing 0 := by
  unfold firstPhase
  split
  · exact .inl rfl
  · exact .inr rfl

/-- The conditions of R96, on the state that a begin finds. -/
theorem canBegin_iff (s : State) : canBegin s = true ↔ s.engine.state = .idle ∧ s.queue ≠ [] ∧ mayBegin s := by
  have hlow : (!(s.power.low && !journalOn s.straps)) = true ↔ s.power.low = false ∨ journalOn s.straps = true := by
    cases s.power.low <;> cases journalOn s.straps <;> simp
  simp only [canBegin, Bool.and_eq_true, decide_eq_true_eq, hlow, mayBegin, Bool.not_eq_true',
    List.isEmpty_eq_false_iff]
  constructor
  · rintro ⟨⟨⟨hidle, hhold⟩, hq⟩, hlow⟩
    exact ⟨hidle, hq, hhold, hlow⟩
  · rintro ⟨hidle, hq, hhold, hlow⟩
    exact ⟨⟨⟨hidle, hhold⟩, hq⟩, hlow⟩

/-! ### HOLD_OFF -/

/-- The state with HOLD clear. -/
def holdCleared (s : State) : State := { s with engine := { s.engine with hold := false } }

theorem holdOffCmd_stays (h : s.engine.state ≠ .idle ∨ s.queue = []
    ∨ (s.power.low = true ∧ journalOn s.straps = false) ∨ s.engine.hold = false) :
    holdOffCmd s = (.ok, holdCleared s) := by
  unfold holdOffCmd
  cases hold : s.engine.hold with
  | false =>
    have hsame : holdCleared s = s := by rw [holdCleared, ← hold]
    rw [if_neg Bool.false_ne_true, hsame]
  | true =>
    have hcan : ¬canBegin (holdCleared s) = true := by
      rw [canBegin_iff]
      rintro ⟨hidle, hq, _, hlow⟩
      obtain h | h | ⟨h, hoff⟩ | h := h
      · exact h hidle
      · exact hq h
      · obtain hl | hl := hlow
        · exact nomatch h.symm.trans hl
        · exact nomatch hoff.symm.trans hl
      · exact nomatch hold.symm.trans h
    rw [if_pos rfl]
    exact congrArg (Prod.mk Status.ok) (if_neg hcan)

theorem holdOffCmd_begins (hidle : s.engine.state = .idle) (hq : s.queue ≠ [])
    (hlow : s.power.low = false ∨ journalOn s.straps = true) (hhold : s.engine.hold = true) (hw : waitingSound s) :
    holdOffCmd s = (.ok, goOn (firstPhase s.straps) (holdCleared s)) := by
  have hcan : canBegin (holdCleared s) = true := (canBegin_iff _).mpr ⟨hidle, hq, rfl, hlow⟩
  have hstop : (firstPhase s.straps).stopped = false := by
    obtain h | h := firstPhase_cases s.straps <;> rw [h] <;> rfl
  unfold holdOffCmd
  rw [if_pos hhold]
  refine congrArg (Prod.mk Status.ok) ((if_pos hcan).trans ?_)
  show examine false (goOn (firstPhase s.straps) (holdCleared s)) = _
  rw [goOn_eq]
  exact examine_of_draining (v := { s.engine with hold := false, state := firstPhase s.straps }) _ hw hq hstop

/-! ### RETRY -/

theorem retryCmd_faulted {p : Phase} {i : Nat} (he : s.engine.state = .faulted p i) (hq : s.queue ≠ [])
    (hw : waitingSound s) : retryCmd s = (.ok, goOn p.restart s) := by
  rw [retryCmd, he]
  exact congrArg (Prod.mk Status.ok) (enter_eq_goOn hw hq (by cases p <;> rfl))

end Commands

/-- Settles O19: each command looks at the engine's state first; the two that BLOCKED takes request one access of an engine
that has none. -/
theorem recoveryAndRefusedCommands : Obligations.RecoveryAndRefusedCommands := by
  constructor
  · intro code s hf
    refine ⟨fun h => ?_, fun h => ?_, fun h => ?_, fun h => ?_, fun h => ⟨?_, ?_⟩, fun c h => ⟨?_, ?_⟩⟩
    · exact congrArg _ (frameWith_refused hf (ecmdWrite_range h s))
    · exact congrArg _ (frameWith_refused hf (retryCmd_state h))
    · exact congrArg _ (frameWith_refused hf (abandonHeadCmd_state h))
    · exact congrArg _ (frameWith_refused hf (stageClearCmd_state h))
    · exact congrArg _ (frameWith_refused hf (recoverRetryCmd_state h))
    · exact congrArg _ (frameWith_refused hf (journalDiscardCmd_state h))
    · exact congrArg _ (frameWith_refused hf (recoverRetryCmd_blocked h))
    · exact congrArg _ (frameWith_refused hf (journalDiscardCmd_blocked h))
  · intro s c hf he hs
    have hrests : s.engine.state.rests = true := by rw [he]; rfl
    have hsound := (engineSound_iff s).mp hs
    refine ⟨⟨startRecovery s, ?_, goOn_eq _ _, ?_⟩, goOn (.blocked c true) s, ?_, goOn_eq _ _, ?_⟩
    · exact congrArg _ (frameWith_accepted hf (recoverRetryCmd_blocked he) (by rw [startRecovery, goOn_eq]))
    · have hcleared : SoundEngine { s with
          engine := { s.engine with rseq := 0#16, rdom := 0#16, rtag := 0#16, rcnt := 0#16 } } :=
        hsound.congr rfl rfl rfl id
      rw [startRecovery, (soundEngine_goOn (e := .recovering .marker) hcleared hrests nofun).access.outstanding, goOn_eq]
      rfl
    · exact congrArg _ (frameWith_accepted hf (journalDiscardCmd_blocked he) (by rw [goOn_eq]))
    · rw [(soundEngine_goOn (e := .blocked c true) hsound hrests nofun).access.outstanding, goOn_eq]
      rfl

/-- Settles O20: a begin and a restart request the first access of their phase, and drain is pending after them. -/
theorem holdAndRetryCommands : Obligations.HoldAndRetryCommands := by
  constructor
  · intro s hf
    refine ⟨congrArg _ (frameWith_accepted (effect := holdOnCmd) hf rfl rfl), fun h => ?_,
      fun hidle hq hlow hhold hw hs => ?_⟩
    · exact congrArg _ (frameWith_accepted hf (holdOffCmd_stays h) rfl)
    · have hsound : SoundEngine (holdCleared s) := ((engineSound_iff s).mp hs).congr rfl rfl rfl id
      refine ⟨goOn (firstPhase s.straps) (holdCleared s), ?_, goOn_eq _ _, ?_, ?_⟩
      · exact congrArg _ (frameWith_accepted hf (holdOffCmd_begins hidle hq hlow hhold hw) (by rw [goOn_eq]; rfl))
      · exact (soundEngine_goOn hsound (congrArg EngineState.rests hidle) fun _ => hq).access.outstanding
      · rw [goOn_eq]
        exact engineRequest_first (s := { holdCleared s with engine := _, port := _ }) hq
          ((firstPhase_cases s.straps).elim .inl fun h => .inr (.inr (.inl h)))
  · intro s p i hf he hw hs
    have hsound := (engineSound_iff s).mp hs
    have hq := hsound.flight (congrArg EngineState.inFlight he)
    refine ⟨goOn p.restart s, ?_, ?_, ?_, ?_, ?_⟩
    · exact congrArg _ (frameWith_accepted hf (retryCmd_faulted he hq hw) (by rw [goOn_eq]))
    · rw [goOn_eq]
    · rw [goOn_eq]
      cases p <;> rfl
    · exact (soundEngine_goOn hsound (congrArg EngineState.rests he) fun _ => hq).access.outstanding
    · rw [goOn_eq]
      refine engineRequest_first (s := { s with engine := _, port := _ }) hq ?_
      cases p with
      | copying => exact .inl rfl
      | marking => exact .inr (.inl rfl)
      | homing => exact .inr (.inr (.inl rfl))
      | clearing => exact .inr (.inr (.inr rfl))

end Sys2Proof.Machine
end

section
/-! PROOFS. The head leaves the queue: by its retire, or by ABANDON_HEAD. The two share what follows: the flow test with the
head's entries free, the end of the commit held for sync on it, the begin of the next head, and the examination of a staged
write held for space. -/

namespace Sys2Proof.Machine

section HeadGone

variable {s u : State} {g : GroupRecord} {rest : List GroupRecord}

/-! ### The commit held for sync -/

/-- The host's port once the commit held for sync has completed, where one is; `b` says whether it is to complete. -/
def syncedPort (b : Bool) : HostPort → HostPort
  | .inProgress p =>
    match p.hold with
    | .sync _ => if b then quietEnd p.ended else .inProgress p
    | _ => .inProgress p
  | port => port

theorem syncedPort_sync {p : Progress} {d : Dom} (hk : p.hold = .sync d) :
    syncedPort true (.inProgress p) = quietEnd p.ended := by
  rw [syncedPort, hk]
  rfl

theorem syncedPort_of_not_sync {b : Bool} {port : HostPort}
    (h : ∀ p d, port = .inProgress p → p.hold = .sync d → b = false) : syncedPort b port = port := by
  unfold syncedPort
  split
  · next p =>
    split
    · next d hk => rw [h p d rfl hk, if_neg Bool.false_ne_true]
    · rfl
  · rfl

theorem completeSync_if_eq (b : Bool) (s : State) :
    (if b then completeSync s else s) = { s with host := { s.host with port := syncedPort b s.host.port } } := by
  cases b with
  | false => rw [if_neg Bool.false_ne_true, syncedPort_of_not_sync fun _ _ _ _ => rfl]
  | true =>
    rw [if_pos rfl]
    unfold completeSync
    split
    · next d hk =>
      obtain ⟨p, hp, hk⟩ := heldFor_eq_some hk
      rw [completeQuiet_eq hp, hp, syncedPort_sync hk]
      rfl
    · next hk =>
      rw [syncedPort_of_not_sync fun p d hp hd => absurd (by rw [heldFor, hp, ← hd]) (hk d)]

/-- What is still in progress after it was so before. -/
theorem eq_of_syncedPort {b : Bool} {port : HostPort} {p : Progress} (h : syncedPort b port = .inProgress p) :
    port = .inProgress p := by
  unfold syncedPort at h
  split at h
  · split at h
    · split at h
      · exact absurd h (quietEnd_ne_inProgress _ p)
      · exact h
    · exact h
  · exact h

/-! ### The state in which the head is gone -/

/-- The head `g` has left the queue of `s`, and the engine is in IDLE; entries stay counted as they were, no flow test has
been made. -/
structure HeadGone (s : State) (g : GroupRecord) (rest : List GroupRecord) (u : State) : Prop where
  head : s.queue = g :: rest
  left : HeadLeft s rest u
  store : u.store = s.store
  host : u.host = s.host
  straps : u.straps = s.straps
  power : u.power = s.power
  engine : u.engine = { s.engine with state := .idle }
  access : EngineHas u.port none

theorem openEntries_eq_sum (s : State) : openEntries s
    = (s.domains.get .i0).group.length + (s.domains.get .i1).group.length
      + (s.domains.get .i2).group.length + (s.domains.get .i3).group.length := rfl

/-- The flow test and the end of the commit held for sync after the head has gone (R57, R101, R109). -/
def headReleased (s : State) (g : GroupRecord) (u : State) : State :=
  if g.sync then completeSync (flowAfterRelease (freeCount s) u) else flowAfterRelease (freeCount s) u

/-- The head is applied (R101). -/
def headApplied (g : GroupRecord) (rest : List GroupRecord) (s : State) : State :=
  setFlag .applied (bump .groupsApplied
    (modDomain g.domain (fun x => { x with appliedTag := g.tag }) (setEngine .idle { s with queue := rest })))

theorem retire_eq_headReleased (hq : s.queue = g :: rest) :
    retire s = grantAndBegin (headReleased s g (headApplied g rest s)) := by
  rw [retire, hq]
  rfl

theorem abandonHead_eq_headReleased (hq : s.queue = g :: rest) :
    abandonHead s = grantAndBegin (headReleased s g (setEngine .idle { s with queue := rest })) := by
  rw [abandonHead, hq]
  rfl

theorem sameSettings_begun (s : State) (g : GroupRecord) (u : State) :
    sameSettings u (tryBegin (headReleased s g u)) := by
  have hflow : sameSettings u (flowAfterRelease (freeCount s) u) :=
    sameSettings_flowAfterRelease _ (sameSettings_refl u)
  refine sameSettings_tryBegin ?_
  unfold headReleased
  split
  · exact sameSettings_completeSync hflow
  · exact hflow

namespace HeadGone

variable (h : HeadGone s g rest u)

include h

theorem released : HeadLeft s rest (headReleased s g u) := (h.left.flowAfterRelease _).completeSync_if g.sync

/-- The head's entries are free, and no others. -/
theorem usedEntries_add : usedEntries u + g.entries.length = usedEntries s := by
  have hgroup : ∀ d, (u.domains.get d).group = (s.domains.get d).group :=
    fun d => h.left.field d Domain.group fun _ _ => rfl
  have hopen : openEntries u = openEntries s := by
    rw [openEntries_eq_sum, openEntries_eq_sum, hgroup, hgroup, hgroup, hgroup]
  simp only [usedEntries, queuedEntries, hopen, h.left.queue, h.head, List.map_cons, List.sum_cons]
  omega

theorem freeCount_add (hs : storeSound s) : freeCount u = freeCount s + g.entries.length := by
  have hu := h.usedEntries_add
  have hcap : usedEntries s ≤ 512 := ((storeSound_iff s).mp hs).capacity
  rw [freeCount_eq, freeCount_eq]
  omega

/-- What the flow test and the end of the commit change. -/
theorem headReleased_eq (hs : storeSound s) : headReleased s g u = { u with
    store := { s.store with flow := flowReleased s g.entries.length }
    host := { s.host with port := syncedPort g.sync s.host.port } } := by
  have hflow : flowAfterRelease (freeCount s) u
      = { u with store := { s.store with flow := flowReleased s g.entries.length } } := by
    simp only [flowAfterRelease_eq, flowReleased, h.freeCount_add hs, h.store, Nat.lt_add_right_iff_pos]
  rw [headReleased, completeSync_if_eq, hflow, h.host]

theorem storeSound_headReleased (hs : storeSound s) : storeSound (headReleased s g u) := by
  refine (storeSound_iff _).mpr ?_
  rw [headReleased, stored_completeSync_if]
  refine ((storeSound_iff s).mp hs).flowAfterRelease ⟨h.store, ?_⟩
  have := h.usedEntries_add
  omega

theorem canBegin_headReleased (hs : storeSound s) : canBegin (headReleased s g u) = true ↔ rest ≠ [] ∧ mayBegin s := by
  rw [canBegin_iff, h.headReleased_eq hs]
  simp only [mayBegin, h.left.queue, h.engine, h.power, h.straps, true_and]

/-- No slot is granted where no commit waits for one and no auto-commit is pending. -/
theorem grantAndBegin_eq (hs : storeSound s) (hauto : ∀ d, (s.domains.get d).autoPending = false)
    (hslot : ∀ p d tag, s.host.port = .inProgress p → p.hold ≠ .queueSlot d tag) :
    grantAndBegin (headReleased s g u) = examine false (tryBegin (headReleased s g u)) := by
  have hpending : ∀ d, grantPending (headReleased s g u) d = headReleased s g u := fun d => by
    exact grantPending_of_not_pending ((h.released.autoPending_eq d).trans (hauto d))
  have hcommit : grantCommit (headReleased s g u) = headReleased s g u := by
    unfold grantCommit
    split
    · next d tag hk =>
      obtain ⟨p, hp, hk⟩ := heldFor_eq_some hk
      rw [h.headReleased_eq hs] at hp
      exact absurd hk (hslot p d tag (eq_of_syncedPort hp))
    · rfl
  rw [grantAndBegin, grantSlots_eq, hcommit, hpending, hpending, hpending, hpending]

/-- The staged write held for space is examined with the head gone (R52). -/
theorem examine_heldWrite {p : Progress} {d : Dom} {a : Addr} {l : Lanes} {w : Word} (hs : storeSound s)
    (hw : heldWrite s p d a l w) : examine false (tryBegin (headReleased s g u))
      = examinedWrite (tryBegin (headReleased s g u)) d a l w (quietEnd p.ended) := by
  obtain ⟨hp, hk, ⟨hdp, ha⟩, hsound⟩ := hw
  rw [holdSound, hk] at hsound
  obtain ⟨htakes, _, hlow, a', l', w', hdp', ha', _, hnew⟩ := hsound
  cases ha.symm.trans ha'
  have hstore : storeSound (tryBegin (headReleased s g u)) := by
    refine (storeSound_iff _).mpr ?_
    rw [stored_tryBegin]
    exact (storeSound_iff _).mp (h.storeSound_headReleased hs)
  have hport : (tryBegin (headReleased s g u)).host.port = .inProgress p := by
    rw [host_tryBegin, h.headReleased_eq hs]
    refine (syncedPort_of_not_sync fun q e hq hqk => ?_).trans hp
    cases hp.symm.trans hq
    cases hk.symm.trans hqk
  have hdomain : (tryBegin (headReleased s g u)).domains = u.domains := by
    rw [tryBegin_eq, h.headReleased_eq hs]
  have hfield : ∀ {α : Type} (f : Domain → α), (∀ x tag, f { x with appliedTag := tag } = f x) →
      f ((tryBegin (headReleased s g u)).domains.get d) = f (s.domains.get d) := fun f hf => by
    rw [hdomain]
    exact h.left.field d f hf
  rw [examine_of_storeSpace false hport hk ha]
  refine examineWrite_eq l w hport ?_ ?_ ?_ hstore
  · rw [takesWrites, hfield Domain.state fun _ _ => rfl]
    exact htakes
  · rw [tryBegin_eq, h.headReleased_eq hs]
    exact (congrArg Power.low h.power).trans hlow
  · rw [hfield Domain.group fun _ _ => rfl]
    exact hnew

/-- With the head gone the next one begins, where one may (R96). -/
theorem begun_eq (hs : storeSound s) : tryBegin (headReleased s g u) = { u with
    store := { s.store with flow := flowReleased s g.entries.length }
    host := { s.host with port := syncedPort g.sync s.host.port }
    engine := { s.engine with state := if rest ≠ [] ∧ mayBegin s then firstPhase s.straps else .idle }
    port := (tryBegin (headReleased s g u)).port } := by
  have hstate : (if canBegin (headReleased s g u) then firstPhase (headReleased s g u).straps
      else (headReleased s g u).engine.state) = if rest ≠ [] ∧ mayBegin s then firstPhase s.straps else .idle := by
    refine if_congr (h.canBegin_headReleased hs) ?_ ?_ <;> rw [h.headReleased_eq hs]
    · exact congrArg firstPhase h.straps
    · exact congrArg Engine.state h.engine
  have hbegun := tryBegin_eq (headReleased s g u)
  rw [hstate] at hbegun
  refine hbegun.trans ?_
  generalize (tryBegin (headReleased s g u)).port = q
  simp only [h.headReleased_eq hs, h.engine]

theorem outstanding_begun (hs : storeSound s) : engineOutstanding (tryBegin (headReleased s g u)).port
    = engineRequest (tryBegin (headReleased s g u)) := by
  refine engineOutstanding_tryBegin ?_
  have hidle : engineRequest (headReleased s g u) = none :=
    engineRequest_of_rests (by rw [h.headReleased_eq hs, h.engine]; rfl)
  rw [hidle, h.headReleased_eq hs]
  exact h.access.outstanding

theorem freeCount_begun (hs : storeSound s) :
    freeCount (tryBegin (headReleased s g u)) = freeCount s + g.entries.length := by
  rw [h.begun_eq hs]
  exact h.freeCount_add hs

theorem host_begun (hs : storeSound s) : (tryBegin (headReleased s g u)).host
    = { s.host with port := syncedPort g.sync s.host.port } := by
  rw [h.begun_eq hs]

/-- The commit held for sync on the head completes. -/
theorem port_begun_sync {p : Progress} {d : Dom} (hs : storeSound s) (hp : s.host.port = .inProgress p)
    (hk : p.hold = .sync d) (hg : g.sync = true) : (tryBegin (headReleased s g u)).host.port = quietEnd p.ended := by
  rw [h.host_begun hs, hp, hg]
  exact syncedPort_sync hk

theorem host_begun_unsynced (hs : storeSound s)
    (hp : ∀ p d, s.host.port = .inProgress p → p.hold = .sync d → g.sync = false) :
    (tryBegin (headReleased s g u)).host = s.host := by
  rw [h.host_begun hs, syncedPort_of_not_sync hp]

/-- Where no access waits for the queue the head's leaving ends with the begin of the next head. -/
theorem ends_noneWaiting (hs : storeSound s) (hauto : ∀ d, (s.domains.get d).autoPending = false)
    (hn : noneWaiting s) : grantAndBegin (headReleased s g u) = tryBegin (headReleased s g u) := by
  rw [h.grantAndBegin_eq hs hauto fun p d tag hp => (hn p hp).2 d tag]
  exact examine_of_noneWaiting false (noneWaiting_of_same_port (by rw [host_tryBegin]) (h.released.unheld hn))

theorem ends_heldWrite {p : Progress} {d : Dom} {a : Addr} {l : Lanes} {w : Word} (hs : storeSound s)
    (hauto : ∀ d, (s.domains.get d).autoPending = false) (hw : heldWrite s p d a l w) :
    grantAndBegin (headReleased s g u) = examinedWrite (tryBegin (headReleased s g u)) d a l w (quietEnd p.ended) := by
  rw [h.grantAndBegin_eq hs hauto fun q e tag hq hk => ?_, h.examine_heldWrite hs hw]
  obtain ⟨hp, hpk, _, _⟩ := hw
  cases hp.symm.trans hq
  cases hpk.symm.trans hk

theorem noneAgain_begun (hs : storeSound s) (hn : noneAgain s) : noneAgain (tryBegin (headReleased s g u)) := by
  rw [noneAgain, h.host_begun hs]
  exact hn

end HeadGone

/-- The head leaves by its retire, in the state that the end of the last access of the apply left (R101). -/
theorem headGone_retire {a : ArrayAccess} (m : List Host.Cell) (hq : s.queue = g :: rest) (hs : engineSound s)
    (ha : s.port.access = some a) (hw : a.requester = .engine) :
    HeadGone s g rest (headApplied g rest { s with array := m, port := s.port.finish }) := by
  refine ⟨hq, ⟨rfl, rfl, rfl, rfl, fun d => ?_, fun p d tag hp _ => hp, id⟩, rfl, rfl, rfl, rfl, rfl,
    ((engineSound_iff s).mp hs).access.finish ha hw⟩
  simp only [headApplied, setFlag_domains, bump_domains, modDomain_domains, setEngine_domains, Four.get_set]
  split
  · next hd => rw [hd]
  · rfl

/-- The head leaves by ABANDON_HEAD, where the engine rests (R109). -/
theorem headGone_abandon (hq : s.queue = g :: rest) (hs : engineSound s) (hr : s.engine.state.rests = true) :
    HeadGone s g rest (setEngine .idle { s with queue := rest }) :=
  ⟨hq, ⟨rfl, rfl, rfl, rfl, fun _ => rfl, fun _ _ _ hp _ => hp, id⟩, rfl, rfl, rfl, rfl, rfl,
    engineRequest_of_rests hr ▸ ((engineSound_iff s).mp hs).access⟩

end HeadGone

/-- Settles O42: the end of the last access leaves the head gone and the engine with no access; what follows is the leaving
of the head. -/
theorem retireOfTheHead : Obligations.RetireOfTheHead := by
  intro s ad g rest a ha hw hk hq hlast hsound hs hagain hauto
  obtain ⟨w, hdone⟩ := accessComplete_engineWrite ad ha hw hk
  generalize Memory.store s.array a.request.addr a.request.lanes a.request.data = m at hdone ⊢
  rw [engineAccessDone_retires (s := { s with array := m, port := s.port.finish }) w hq hlast,
    retire_eq_headReleased (s := { s with array := m, port := s.port.finish }) hq] at hdone
  have h := headGone_retire m hq hsound ha hw
  generalize hu : headApplied g rest { s with array := m, port := s.port.finish } = u at hdone h
  have hdone : accessComplete ad s = grantAndBegin (headReleased s g u) := hdone
  have hset : sameSettings { s with array := m } u := by
    obtain ⟨harrto, hstarve, _⟩ := Port.finish_limits s.port
    rw [← hu]
    exact ⟨rfl, rfl, rfl, rfl, rfl, rfl, rfl, rfl, rfl, rfl, rfl, harrto, hstarve, rfl⟩
  have hdomains : u.domains = s.domains.set g.domain { s.domains.get g.domain with appliedTag := g.tag } := by
    rw [← hu]
    rfl
  have ht := h.begun_eq hs
  refine ⟨tryBegin (headReleased s g u), sameSettings_trans hset (sameSettings_begun s g u), ?_, h.freeCount_begun hs,
    ?_, ?_, fun e he => ?_, ?_, ?_, h.outstanding_begun hs, ?_, fun p d hp hk => h.port_begun_sync hs hp hk,
    h.host_begun_unsynced hs, fun hn => ?_, fun p d b l w hw _ => ?_⟩
  · rw [ht]; exact h.left.queue
  · rw [ht]
  · rw [ht, hdomains, Four.get_set_same]
  · rw [ht, hdomains, Four.get_set_of_ne _ _ he]
  · rw [ht, ← hu]; rfl
  · rw [ht]
  · rw [ht]
  · rw [exec_arrayAccessComplete, takeArdy, hdone, h.ends_noneWaiting hs hauto hn,
      settle_of_noneAgain s (h.noneAgain_begun hs hagain)]
  · rw [exec_arrayAccessComplete, takeArdy, hdone, h.ends_heldWrite hs hauto hw]
    exact congrArg _ (settle_of_noneAgain s
      ((host_again_examinedWrite _ _ _ _ _ _).trans (h.noneAgain_begun hs hagain)))

/-- Settles O21: the faulted engine has no access, so that it goes to IDLE in the place where a retire would. -/
theorem abandonHeadDiscardsTheHead : Obligations.AbandonHeadDiscardsTheHead := by
  intro s i g rest hf hagain he hq hauto hsound hs
  have h := headGone_abandon hq hsound (congrArg EngineState.rests he)
  have hcmd : abandonHeadCmd s = (.ok, grantAndBegin (headReleased s g (setEngine .idle { s with queue := rest }))) := by
    rw [abandonHeadCmd, he, ← abandonHead_eq_headReleased hq]
  generalize hu : setEngine .idle { s with queue := rest } = u at h hcmd
  have hset : sameSettings s u := by
    rw [← hu]
    exact sameSettings_refl s
  have ht := h.begun_eq hs
  refine ⟨tryBegin (headReleased s g u), ?_, ?_, ?_, sameSettings_trans hset (sameSettings_begun s g u),
    h.freeCount_begun hs, ?_, ?_, h.outstanding_begun hs, ?_, fun p d hp hk => h.port_begun_sync hs hp hk,
    h.host_begun_unsynced hs, fun hn => ?_,
    fun p d a l w hw _ => ?_⟩
  · rw [ht]; exact h.left.queue
  · rw [ht, ← hu]; rfl
  · rw [ht, ← hu]; rfl
  · rw [ht]
  · rw [ht]
  · rw [ht]
  · rw [h.ends_noneWaiting hs hauto hn] at hcmd
    exact congrArg _ (frameWith_accepted_of_noneAgain hf hcmd (h.noneAgain_begun hs hagain))
  · rw [h.ends_heldWrite hs hauto hw] at hcmd
    refine congrArg _ (frameWith_accepted_of_noneAgain hf hcmd ?_)
    exact (host_again_examinedWrite _ _ _ _ _ _).trans (h.noneAgain_begun hs hagain)

end Sys2Proof.Machine
end

section
/-! PROOFS. A due timeout of the engine's access: an apply faults, a recovery and a discard write end in BLOCKED. -/

namespace Sys2Proof.Machine

section Timeout

variable {s : State}

/-- ARRSRC has no part in an arbitration. -/
theorem Port.arbitrate_arrsrc (x : ArrSrc) (p : Port) :
    ({ p with arrsrc := x } : Port).arbitrate = { p.arbitrate with arrsrc := x } := by
  unfold Port.arbitrate
  dsimp only
  split
  · split <;> rfl
  all_goals rfl

/-- The engine's access has timed out: the engine is in the state `e`, and ARRAY and the flag `f` are set. -/
def engineLost (left : Option Word) (e : EngineState) (f : FlagId) (s : State) : State := { s with
  engine := { s.engine with state := e }
  port := Port.arbitrate { s.port with access := none, arrsrc := .engine }
  array := interrupted left s
  mgmt := s.mgmt.noted [.array, f] [] }

theorem engineLost_eq (left : Option Word) (e : EngineState) (f : FlagId) (s : State) :
    setEngine e (setFlag f (setFlag .array { s with
      array := interrupted left s, port := { s.port.finish with arrsrc := .engine } })) = engineLost left e f s := by
  rw [engineLost, Port.arbitrate_arrsrc .engine { s.port with access := none }]
  rfl

theorem accessTimeout_engine {a : ArrayAccess} (left : Option Word) (ha : s.port.access = some a)
    (hw : a.requester = .engine) (hd : a.due = true) :
    accessTimeout left s = engineTimedOut { s with array := interrupted left s, port := s.port.finish } := by
  simp only [accessTimeout, ha, hw, hd, if_true]

/-- The phase and the record index at which an apply in the engine state `e` faults (R105). -/
def faultsAt (e : EngineState) (p : Phase) (i : Nat) : Prop :=
  (∃ w, e = .copying i w) ∧ p = .copying ∨ e = .marking i ∧ p = .marking ∨ e = .homing i ∧ p = .homing
    ∨ e = .clearing ∧ p = .clearing ∧ i = 0

theorem accessTimeout_faults {a : ArrayAccess} {p : Phase} {i : Nat} (left : Option Word) (ha : s.port.access = some a)
    (hw : a.requester = .engine) (hd : a.due = true) (h : faultsAt s.engine.state p i) :
    accessTimeout left s = examine false (engineLost left (.faulted p i) .fault s) := by
  rw [accessTimeout_engine left ha hw hd, ← engineLost_eq, engineTimedOut]
  obtain ⟨⟨w, he⟩, rfl⟩ | ⟨he, rfl⟩ | ⟨he, rfl⟩ | ⟨he, rfl, rfl⟩ := h <;> rw [he] <;> rfl

theorem accessTimeout_recovering {a : ArrayAccess} {r : Recovery} (left : Option Word) (ha : s.port.access = some a)
    (hw : a.requester = .engine) (hd : a.due = true) (h : s.engine.state = .recovering r) :
    accessTimeout left s = releaseHeld (engineLost left (.blocked .array false) .recfail s) := by
  rw [accessTimeout_engine left ha hw hd, ← engineLost_eq, engineTimedOut, h]
  rfl

theorem accessTimeout_discarding {a : ArrayAccess} {c : BlockCause} (left : Option Word) (ha : s.port.access = some a)
    (hw : a.requester = .engine) (hd : a.due = true) (h : s.engine.state = .blocked c true) :
    accessTimeout left s = engineLost left (.blocked .array false) .recfail s := by
  rw [accessTimeout_engine left ha hw hd, ← engineLost_eq, engineTimedOut, h]
  rfl

theorem releaseHeld_of_no_access (h : ∀ p, s.host.port ≠ .inProgress p) : releaseHeld s = s := by
  unfold releaseHeld
  split
  · next p hp => exact absurd hp (h p)
  · rfl

theorem interrupted_none (s : State) : interrupted none s = s.array := by
  unfold interrupted
  split
  · next h => cases h
  · rfl

/-- A timeout whose effect leaves no access captured behind the one that it ends. -/
theorem exec_arrayTimeout {t : State} (left : Option Word) (h : accessTimeout left s = t) (ht : noneAgain t) :
    exec (.arrayTimeout left) s = .next t :=
  congrArg Host.Outcome.next ((congrArg (settle s) h).trans (settle_of_noneAgain s ht))

/-- What waits at the host port waits still when the engine has lost its access. -/
theorem heldWrite_engineLost {q : Progress} {d : Dom} {b : Addr} {l : Lanes} {w : Word} (left : Option Word)
    (e : EngineState) (f : FlagId) (h : heldWrite s q d b l w) : heldWrite (engineLost left e f s) q d b l w := by
  obtain ⟨hp, hk, ha, hsound⟩ := h
  rw [holdSound, hk] at hsound
  refine ⟨hp, hk, ha, ?_⟩
  rw [holdSound, hk]
  exact hsound

theorem heldCommit_engineLost {q : Progress} {d : Dom} {tag : Word} (left : Option Word) (e : EngineState) (f : FlagId)
    (h : heldCommit s q d tag) : heldCommit (engineLost left e f s) q d tag := by
  obtain ⟨hp, hk, hsound⟩ := h
  rw [holdSound, hk] at hsound
  refine ⟨hp, hk, ?_⟩
  rw [holdSound, hk]
  exact hsound

/-- A faulted engine drains nothing: a staged write held for space breaks its domain (R105). -/
theorem examine_heldWrite_faulted {t : State} {q : Progress} {d : Dom} {b : Addr} {l : Lanes} {w : Word} {p : Phase}
    {i : Nat} (ht : t.engine.state = .faulted p i) (hs : storeSound t) (h : heldWrite t q d b l w) :
    examine false t = brokeAndDropped t d .storeFull [] (quietEnd q.ended) := by
  obtain ⟨hp, hk, ⟨hdp, ha⟩, hsound⟩ := h
  rw [holdSound, hk] at hsound
  obtain ⟨htakes, hflow, hlow, _⟩ := hsound
  rw [examine_of_storeSpace false hp hk ha]
  exact (examineWrite_throttled b l w hp htakes hlow hflow).2 (drainPending_eq_false (.inr ⟨p, i, ht⟩)) hs

/-- A commit held for a slot that a faulted engine does not free breaks its domain (R105). -/
theorem examine_heldCommit_faulted {t : State} {q : Progress} {d : Dom} {tag : Word} {p : Phase} {i : Nat}
    (ht : t.engine.state = .faulted p i) (hs : storeSound t) (h : heldCommit t q d tag) :
    examine false t = commitBrokeAndDropped t d .queueFull [] (quietEnd q.ended) := by
  obtain ⟨hp, hk, hsound⟩ := h
  rw [holdSound, hk] at hsound
  obtain ⟨htakes, _, hfull, _⟩ := hsound
  rw [examine_of_queueSlot false hp hk]
  exact (examineCommit_full tag hp hfull htakes).2 (drainPending_eq_false (.inr ⟨p, i, ht⟩)) hs

end Timeout

/-- Settles O44: the state in which the access is lost, then the examination that a fault makes, or in recovery the release
of an access that is not there. -/
theorem engineAccessTimesOut : Obligations.EngineAccessTimesOut := by
  intro s left a ha hw hd hagain
  refine ⟨fun p i h => ?_, fun r h hno => ?_, fun c h => ?_⟩
  · have hout := accessTimeout_faults left ha hw hd h
    have hstate : (engineLost left (.faulted p i) .fault s).engine.state = .faulted p i := rfl
    refine ⟨engineLost left (.faulted p i) .fault s, rfl, fun hl => hl ▸ interrupted_none s, fun hn => ?_,
      fun hs q d _ => ⟨fun b l w hheld => ?_, fun tag hheld => ?_⟩⟩
    · rw [examine_of_noneWaiting (s := engineLost left (.faulted p i) .fault s) false hn] at hout
      exact exec_arrayTimeout left hout hagain
    · rw [examine_heldWrite_faulted hstate hs (heldWrite_engineLost left (.faulted p i) .fault hheld)] at hout
      exact exec_arrayTimeout left hout hagain
    · rw [examine_heldCommit_faulted hstate hs (heldCommit_engineLost left (.faulted p i) .fault hheld)] at hout
      exact exec_arrayTimeout left hout hagain
  · have hout := accessTimeout_recovering left ha hw hd h
    rw [releaseHeld_of_no_access (s := engineLost left (.blocked .array false) .recfail s) hno] at hout
    exact ⟨_, exec_arrayTimeout left hout hagain, rfl⟩
  · exact ⟨_, exec_arrayTimeout left (accessTimeout_discarding left ha hw hd h) hagain, rfl⟩

end Sys2Proof.Machine
end

section
/-! PROOFS. STAGE_CLEAR: the domains that break, the records that leave, and what becomes of the access in progress. -/

namespace Sys2Proof.Machine

section Breaks

variable {s t : State}

/-! ### Domains that break -/

theorem toNat_saturatingSucc (w : Word) : (saturatingSucc w).toNat = min 65535 (w.toNat + 1) := by
  unfold saturatingSucc
  split
  · next h => rw [h]; rfl
  · next h =>
    have hne : w.toNat ≠ 65535 := fun e => h (BitVec.eq_of_toNat_eq e)
    rw [BitVec.toNat_add]
    have := w.isLt
    simp only [BitVec.toNat_ofNat]
    omega

/-- A domain gives up its group where all break: it has one, or it is closing (R15, R110). -/
def breaks (s : State) (d : Dom) : Bool := (s.domains.get d).state == .opened || (s.domains.get d).closing

theorem breaks_iff (s : State) (d : Dom) :
    breaks s d = true ↔ (s.domains.get d).state = .opened ∨ (s.domains.get d).closing = true := by
  rw [breaks, Bool.or_eq_true, beq_iff_eq]

/-- A domain breaks, with the flag and the count. -/
theorem breakIfOpen_of_breaks {d : Dom} (c : BreakCause) (hd : domainSound s.straps (s.domains.get d))
    (hb : breaks s d = true) :
    breakIfOpen c s d = setFlag .broken (bump .groupsBroken (modDomain d (brokenBy c) s)) := by
  have htakes : (s.domains.get d).state = .empty ∨ (s.domains.get d).state = .opened :=
    ((breaks_iff s d).mp hb).elim .inr ((domainSound_iff _ _).mp hd).closing
  rw [breakIfOpen, if_pos ((breaks_iff s d).mp hb), breakCore]
  obtain h | h := htakes <;> rw [h] <;> rfl

theorem breakIfOpen_of_not_breaks {d : Dom} (c : BreakCause) (hb : breaks s d = false) : breakIfOpen c s d = s :=
  if_neg fun h => nomatch hb.symm.trans ((breaks_iff s d).mpr h)

/-- Of the domains `ds` those that give up a group have broken with the cause `c`. -/
structure BrokeAmong (c : BreakCause) (s : State) (ds : List Dom) (t : State) : Prop where
  frame : t = { s with
    domains := t.domains, mgmt := { s.mgmt with flags := t.mgmt.flags, counters := t.mgmt.counters } }
  domain : ∀ d, t.domains.get d = if d ∈ ds ∧ breaks s d then brokenBy c (s.domains.get d) else s.domains.get d
  broken : t.flag .broken = (s.flag .broken || ds.any (breaks s))
  flags : ∀ f, f ≠ .broken → t.flag f = s.flag f
  counters : ∀ k, k ≠ .groupsBroken → t.mgmt.counters.get k = s.mgmt.counters.get k
  count : (t.mgmt.counters.get .groupsBroken).toNat
    = min 65535 ((s.mgmt.counters.get .groupsBroken).toNat + (ds.filter (breaks s)).length)

theorem BrokeAmong.none (c : BreakCause) (s : State) : BrokeAmong c s [] s := by
  refine ⟨rfl, fun d => ?_, ?_, fun _ _ => rfl, fun _ _ => rfl, ?_⟩
  · simp
  · simp
  · have := (s.mgmt.counters.get .groupsBroken).isLt
    simp only [List.filter_nil, List.length_nil]
    omega

/-- One more domain. -/
theorem BrokeAmong.breakIfOpen {c : BreakCause} {ds : List Dom} {d : Dom} (h : BrokeAmong c s ds t) (hd : d ∉ ds)
    (hs : domainSound s.straps (s.domains.get d)) : BrokeAmong c s (ds ++ [d]) (breakIfOpen c t d) := by
  have hget : t.domains.get d = s.domains.get d := by
    rw [h.domain d, if_neg fun hb => hd hb.1]
  have hbreaks : breaks t d = breaks s d := by rw [breaks, breaks, hget]
  have hstraps : t.straps = s.straps := by rw [h.frame]
  cases hb : breaks s d with
  | false =>
    rw [breakIfOpen_of_not_breaks c (hbreaks.trans hb)]
    refine ⟨h.frame, fun e => ?_, ?_, h.flags, h.counters, ?_⟩
    · rw [h.domain e]
      refine if_congr ?_ rfl rfl
      simp only [List.mem_append, List.mem_singleton, and_congr_left_iff]
      intro he
      have hed : e ≠ d := fun hed => Bool.false_ne_true (hb.symm.trans (hed ▸ he : breaks s d = true))
      exact ⟨.inl, fun hm => hm.resolve_right hed⟩
    · simp [h.broken, hb]
    · simp [h.count, hb]
  | true =>
    rw [breakIfOpen_of_breaks c (hget ▸ hstraps ▸ hs) (hbreaks.trans hb)]
    have hbump : ∀ k, (setFlag .broken (bump .groupsBroken (modDomain d (brokenBy c) t))).mgmt.counters.get k
        = (t.mgmt.counters.set .groupsBroken (saturatingSucc (t.mgmt.counters.get .groupsBroken))).get k := fun _ => rfl
    refine ⟨?_, fun e => ?_, ?_, fun f hf => ?_, fun k hk => ?_, ?_⟩
    · rw [h.frame]
      rfl
    · show (t.domains.set d (brokenBy c (t.domains.get d))).get e = _
      rw [Four.get_set, hget, h.domain e]
      by_cases hed : e = d
      · subst hed
        simp [hb]
      · simp [hed]
    · rw [setFlag_flag_same]
      simp [hb]
    · rw [setFlag_flag_of_ne _ hf]
      exact h.flags f hf
    · rw [hbump, Counters.get_set_of_ne _ _ hk]
      exact h.counters k hk
    · rw [hbump, Counters.get_set_same, toNat_saturatingSucc, h.count]
      simp [hb]
      omega

theorem brokeAmong_breakAll (c : BreakCause) (h : ∀ d, domainSound s.straps (s.domains.get d)) :
    BrokeAmong c s Ix4.all (breakAll c s) :=
  ((((BrokeAmong.none c s).breakIfOpen (by decide) (h .i0)).breakIfOpen (by decide) (h .i1)).breakIfOpen
    (by decide) (h .i2)).breakIfOpen (by decide) (h .i3)

end Breaks

end Sys2Proof.Machine
end

section
/-! PROOFS. STAGE_CLEAR as a whole: the state that the breaks and the discards leave, and what becomes then of each access
that may be in progress. -/

namespace Sys2Proof.Machine

section StageClear

variable {s b : State}

/-! ### What the breaks and the discards leave -/

/-- `b` is `s` with the domains broken that give up a group. -/
structure ClearBroke (s b : State) : Prop where
  broke : BrokeAmong .clear s Ix4.all b
  released : ReleasedSince s b
  sound : ∀ d, domainSound s.straps (s.domains.get d)

theorem clearBroke_breakAll (h : ∀ d, domainSound s.straps (s.domains.get d)) : ClearBroke s (breakAll .clear s) :=
  ⟨brokeAmong_breakAll .clear h, (ReleasedSince.of_stored_eq rfl).breakAll .clear, h⟩

/-- The domains have broken, the records that may leave have left, and one flow test has been made (R110). -/
def stageCleared (s b : State) : State := flowAfterRelease (freeCount s) { b with queue := keptRecords s }

theorem usedEntries_withQueue (q : List GroupRecord) (s : State) :
    usedEntries { s with queue := q } = openEntries s + queuedEntries q := rfl

theorem freeCount_flowAfterRelease (n : Nat) (s : State) : freeCount (flowAfterRelease n s) = freeCount s := by
  rw [flowAfterRelease_eq]
  rfl

/-- A flow test changes the store's state alone. -/
theorem flowAfterRelease_withStore (n : Nat) (s : State) :
    flowAfterRelease n s = { s with store := (flowAfterRelease n s).store } := by
  rw [flowAfterRelease_eq]

namespace ClearBroke

variable (h : ClearBroke s b)

include h

theorem domain (d : Dom) :
    b.domains.get d = if breaks s d then brokenBy .clear (s.domains.get d) else s.domains.get d := by
  have hd : d ∈ Ix4.all := by cases d <;> decide
  simp only [h.broke.domain d, hd, true_and]

/-- After the breaks no group is open. -/
theorem openEntries_eq_zero : openEntries b = 0 := by
  have hgroup : ∀ d, (b.domains.get d).group = [] := fun d => by
    rw [h.domain]
    split
    · rfl
    · next hb => exact ((domainSound_iff _ _).mp (h.sound d)).group_eq_nil fun ho => hb ((breaks_iff s d).mpr (.inl ho))
  simp only [openEntries_eq_sum, hgroup, List.length_nil]

theorem keptRecords_sublist_queue : (keptRecords s).Sublist b.queue := by
  rw [h.broke.frame]
  exact keptRecords_sublist s

theorem freeCount_stageCleared : freeCount (stageCleared s b) = 512 - queuedEntries (keptRecords s) := by
  rw [stageCleared, freeCount_flowAfterRelease, freeCount_eq, usedEntries_withQueue, h.openEntries_eq_zero, Nat.zero_add]

theorem storeSound_stageCleared (hs : storeSound s) : storeSound (stageCleared s b) :=
  (storeSound_iff _).mpr
    (((storeSound_iff s).mp hs).flowAfterRelease (h.released.queue h.keptRecords_sublist_queue))

theorem freeCount_le : freeCount s ≤ freeCount (stageCleared s b) := by
  have hused := (h.released.queue h.keptRecords_sublist_queue).used
  rw [stageCleared, freeCount_flowAfterRelease, freeCount_eq, freeCount_eq]
  omega

theorem store_stageCleared : (stageCleared s b).store
    = { s.store with flow := flowReleased s (freeCount (stageCleared s b) - freeCount s) } := by
  have hle := h.freeCount_le
  have hstore : b.store = s.store := h.released.store
  rw [stageCleared, freeCount_flowAfterRelease] at hle ⊢
  rw [flowAfterRelease_eq]
  dsimp only
  generalize freeCount { b with queue := keptRecords s } = n at hle ⊢
  simp only [hstore, flowReleased, Nat.sub_pos_iff_lt, Nat.add_sub_cancel' hle]

theorem stageCleared_eq : stageCleared s b = { s with
    domains := b.domains
    queue := keptRecords s
    mgmt := { s.mgmt with flags := b.mgmt.flags, counters := b.mgmt.counters }
    store := { s.store with flow := flowReleased s (freeCount (stageCleared s b) - freeCount s) } } := by
  rw [← h.store_stageCleared, stageCleared, flowAfterRelease_withStore]
  generalize (flowAfterRelease (freeCount s) { b with queue := keptRecords s }).store = v
  have hframe := h.broke.frame
  generalize b.domains = x at hframe ⊢
  generalize b.mgmt.flags = y at hframe ⊢
  generalize b.mgmt.counters = z at hframe ⊢
  rw [hframe]

theorem host_eq : b.host = s.host := by rw [h.broke.frame]

theorem host_stageCleared : (stageCleared s b).host = s.host := by rw [h.stageCleared_eq]

theorem domains_stageCleared : (stageCleared s b).domains = b.domains := by rw [h.stageCleared_eq]

theorem sameSettings_stageCleared : sameSettings s (stageCleared s b) := by
  rw [h.stageCleared_eq]
  exact ⟨rfl, rfl, rfl, rfl, rfl, rfl, rfl, rfl, rfl, rfl, rfl, rfl, rfl, rfl⟩

end ClearBroke

/-! ### What becomes of the access in progress -/

/-- A commit held for sync has its record discarded (R110). -/
def discardsSync (s : State) : Bool := (discardedRecords s).any fun g => g.sync

theorem discardsSync_iff (s : State) : discardsSync s = true ↔ ∃ g ∈ discardedRecords s, g.sync = true := List.any_eq_true

theorem discardedRecords_eq_drop (s : State) : discardedRecords s = s.queue.drop (keptRecords s).length := by
  unfold discardedRecords keptRecords
  split
  · cases s.queue <;> rfl
  · rfl

/-- What a flow test finds depends on the store and the number of entries alone. -/
theorem flowAfterRelease_of_stored (n : Nat) {s v : State} (h : v.stored = s.stored) :
    flowAfterRelease n v = { v with store := (flowAfterRelease n s).store } := by
  have hstore : v.store = s.store := congrArg Stored.store h
  have hfree : freeCount v = freeCount s := congrArg (512 - ·) (congrArg Stored.used h)
  rw [flowAfterRelease_eq, flowAfterRelease_eq, hstore, hfree]

theorem flowAfterRelease_withHost (n : Nat) (v : HostSide) (s : State) :
    flowAfterRelease n { s with host := v } = { flowAfterRelease n s with host := v } := by
  rw [flowAfterRelease_eq, flowAfterRelease_eq]
  rfl

/-- The host's side after STAGE_CLEAR has ended the commit held for sync, where its record is discarded. -/
def clearedHost (s : State) : HostSide := { s.host with port := syncedPort (discardsSync s) s.host.port }

theorem stageClear_eq_examine (s : State) : stageClear s = examine false (flowAfterRelease (freeCount s)
    { consumeHeldCommit (breakAll .clear s) with
      queue := keptRecords s
      host := { (consumeHeldCommit (breakAll .clear s)).host with
        port := syncedPort (discardsSync s) (consumeHeldCommit (breakAll .clear s)).host.port } }) :=
  congrArg (fun u => examine false (flowAfterRelease (freeCount s) u)) (completeSync_if_eq (discardsSync s)
    { consumeHeldCommit (breakAll .clear s) with queue := keptRecords s })

/-- STAGE_CLEAR where no commit waits for a slot. -/
theorem stageClear_eq (h : ∀ d, domainSound s.straps (s.domains.get d))
    (hslot : ∀ p d tag, s.host.port = .inProgress p → p.hold ≠ .queueSlot d tag) :
    stageClear s = examine false { stageCleared s (breakAll .clear s) with host := clearedHost s } := by
  have hhost := (clearBroke_breakAll h).host_eq
  rw [stageClear_eq_examine]
  generalize breakAll .clear s = b at hhost ⊢
  have hkeep : consumeHeldCommit b = b := by
    unfold consumeHeldCommit
    split
    · next d tag hk =>
      obtain ⟨p, hp, hk⟩ := heldFor_eq_some hk
      exact absurd hk (hslot p d tag (hhost ▸ hp))
    · rfl
  rw [hkeep, hhost]
  exact congrArg (examine false) (flowAfterRelease_withHost _ _ { b with queue := keptRecords s })

/-- STAGE_CLEAR where a commit waits for a slot: it is a commit to BROKEN (R28, R110). -/
theorem stageClear_heldCommit {p : Progress} {d : Dom} {tag : Word} (h : ∀ d, domainSound s.straps (s.domains.get d))
    (hw : heldCommit s p d tag) : stageClear s = { stageCleared s (breakAll .clear s) with
      domains := (stageCleared s (breakAll .clear s)).domains.set d
        { (stageCleared s (breakAll .clear s)).domains.get d with state := .empty }
      host := { s.host with port := quietEnd p.ended, dropcause := .broken }
      mgmt := (stageCleared s (breakAll .clear s)).mgmt.noted [.dropped] [.writesDropped] } := by
  obtain ⟨hp, hk, hsound⟩ := hw
  rw [holdSound, hk] at hsound
  obtain ⟨_, hclosing, _⟩ := hsound
  have hb := clearBroke_breakAll h
  rw [stageClear_eq_examine]
  generalize breakAll .clear s = b at hb ⊢
  have hbp : b.host.port = .inProgress p := hb.host_eq ▸ hp
  have hbroken : (b.domains.get d).state = .broken := by
    rw [hb.domain, if_pos ((breaks_iff s d).mpr (.inr hclosing))]
    rfl
  have hconsume : consumeHeldCommit b = { b with
      domains := b.domains.set d { b.domains.get d with state := .empty }
      host := { s.host with port := quietEnd p.ended, dropcause := .broken }
      mgmt := b.mgmt.noted [.dropped] [.writesDropped] } := by
    have hcommit : consumeHeldCommit b = commitToBroken d b := by
      simp only [consumeHeldCommit, heldFor, hbp, hk]
    have hack : modDomain d Domain.acknowledge b
        = { b with domains := b.domains.set d { b.domains.get d with state := .empty } } := by
      rw [modDomain, Domain.acknowledge, if_pos hbroken]
    have hdrop := dropWrite_eq .broken
      (s := { b with domains := b.domains.set d { b.domains.get d with state := .empty } }) hbp
    rw [hcommit, commitToBroken, hack, hdrop, hb.host_eq]
  have hquiet : syncedPort (discardsSync s) (quietEnd p.ended) = quietEnd p.ended :=
    syncedPort_of_not_sync fun q _ hq => absurd hq (quietEnd_ne_inProgress p.ended q)
  have hnone : ∀ t : State, t.host.port = quietEnd p.ended → examine false t = t := fun t ht =>
    examine_of_noneWaiting false (noneWaiting_of_not_inProgress (ht ▸ quietEnd_ne_inProgress p.ended))
  rw [hconsume, hquiet, hnone _ (by rw [flowAfterRelease_withStore]), stageCleared,
    flowAfterRelease_withStore _ { b with queue := keptRecords s },
    flowAfterRelease_of_stored (s := { b with queue := keptRecords s })]
  exact stored_modDomain (f := fun x => { x with state := .empty }) { b with queue := keptRecords s } rfl

theorem clearedHost_of_not_sync
    (h : ∀ p d, s.host.port = .inProgress p → p.hold = .sync d → discardsSync s = false) : clearedHost s = s.host := by
  rw [clearedHost, syncedPort_of_not_sync h]

/-- STAGE_CLEAR where nothing waits for the queue: at most a commit held for sync ends. -/
theorem stageClear_of_noneWaiting (h : ∀ d, domainSound s.straps (s.domains.get d)) (hn : noneWaiting s) :
    stageClear s = { stageCleared s (breakAll .clear s) with host := clearedHost s } := by
  rw [stageClear_eq h fun p d tag hp => (hn p hp).2 d tag]
  exact examine_of_noneWaiting false fun p hp => hn p (eq_of_syncedPort hp)

/-- STAGE_CLEAR examines a staged write held for space in the state that it leaves. -/
theorem stageClear_heldWrite {p : Progress} {d : Dom} {a : Addr} {l : Lanes} {w : Word}
    (h : ∀ d, domainSound s.straps (s.domains.get d)) (hw : heldWrite s p d a l w) :
    stageClear s = examineWrite false d a l w (stageCleared s (breakAll .clear s)) := by
  obtain ⟨hp, hk, ⟨hdp, ha⟩, _⟩ := hw
  have hhost := (clearBroke_breakAll h).host_stageCleared
  have hslot : ∀ q e tag, s.host.port = .inProgress q → q.hold ≠ .queueSlot e tag := fun q e tag hq hqk => by
    cases hp.symm.trans hq
    cases hk.symm.trans hqk
  have hsync : clearedHost s = s.host := by
    refine clearedHost_of_not_sync fun q e hq hqk => ?_
    cases hp.symm.trans hq
    cases hk.symm.trans hqk
  rw [stageClear_eq h hslot, hsync]
  generalize stageCleared s (breakAll .clear s) = t at hhost ⊢
  rw [← hhost]
  exact examine_of_storeSpace false ((congrArg HostSide.port hhost).trans hp) hk ha

/-- A staged write whose domain has broken with cause CLEAR is dropped (R110). -/
theorem examineWrite_cleared {t : State} {p : Progress} {d : Dom} {x : Domain} (a : Addr) (l : Lanes) (w : Word)
    (hp : t.host.port = .inProgress p) (hd : t.domains.get d = brokenBy .clear x) :
    examineWrite false d a l w t = { t with
      host := { t.host with port := quietEnd p.ended, dropcause := .broken }
      mgmt := t.mgmt.noted [.dropped] [.writesDropped] } := by
  have hcause : (if (t.domains.get d).breakCause = .power then DropCause.power else .broken) = .broken := by
    rw [hd]
    rfl
  rw [examineWrite, if_pos (by rw [hd]; rfl), hcause]
  exact dropWrite_eq .broken hp

/-- The access in progress waits neither for space nor for a slot. -/
theorem noneWaiting_of_waits_eq_false {p : Progress} (hp : s.host.port = .inProgress p) (hk : p.hold.waits = false) :
    noneWaiting s := fun q hq => by
  cases hp.symm.trans hq
  exact Hold.of_waits_eq_false hk

/-- `t` is what STAGE_CLEAR leaves of `s` before it ends or examines the access in progress. -/
structure ClearLeaves (s t : State) : Prop where
  domain : ∀ d, t.domains.get d = if breaks s d then brokenBy .clear (s.domains.get d) else s.domains.get d
  host : t.host = s.host
  power : t.power = s.power
  store : storeSound t
  ends : noneWaiting s → stageClear s = { t with host := clearedHost s }
  commit : ∀ {p d tag}, heldCommit s p d tag → stageClear s = { t with
    domains := t.domains.set d { t.domains.get d with state := .empty }
    host := { s.host with port := quietEnd p.ended, dropcause := .broken }
    mgmt := t.mgmt.noted [.dropped] [.writesDropped] }
  write : ∀ {p d a l w}, heldWrite s p d a l w → stageClear s = examineWrite false d a l w t

theorem clearLeaves_stageCleared (h : ∀ d, domainSound s.straps (s.domains.get d)) (hs : storeSound s) :
    ClearLeaves s (stageCleared s (breakAll .clear s)) := by
  have hb := clearBroke_breakAll h
  refine ⟨fun d => ?_, hb.host_stageCleared, by rw [hb.stageCleared_eq], hb.storeSound_stageCleared hs,
    stageClear_of_noneWaiting h, stageClear_heldCommit h, stageClear_heldWrite h⟩
  rw [hb.domains_stageCleared]
  exact hb.domain d

namespace ClearLeaves

variable {t : State} {p : Progress} {d : Dom} {a : Addr} {l : Lanes} {w : Word} (h : ClearLeaves s t)

include h

/-- The access in progress goes on where neither the breaks nor the discards end it. -/
theorem goesOn (hn : noneWaiting s)
    (hsync : ∀ p d, s.host.port = .inProgress p → p.hold = .sync d → discardsSync s = false) : stageClear s = t := by
  rw [h.ends hn, clearedHost_of_not_sync hsync, ← h.host]

/-- The commit held for sync ends where its record is discarded. -/
theorem endsSync (hp : s.host.port = .inProgress p) (hk : p.hold = .sync d) (hdis : discardsSync s = true) :
    stageClear s = { t with host := { t.host with port := quietEnd p.ended } } := by
  have hend : clearedHost s = { t.host with port := quietEnd p.ended } := by
    rw [clearedHost, h.host, hdis, hp, syncedPort_sync hk]
  rw [h.ends (noneWaiting_of_waits_eq_false hp (by rw [hk]; rfl)), hend]

theorem dropsWrite (hw : heldWrite s p d a l w) (ho : (s.domains.get d).state = .opened) : stageClear s = { t with
    host := { t.host with port := quietEnd p.ended, dropcause := .broken }
    mgmt := t.mgmt.noted [.dropped] [.writesDropped] } := by
  obtain ⟨hp, _, _⟩ := id hw
  have hcleared := (h.domain d).trans (if_pos ((breaks_iff s d).mpr (.inl ho)))
  exact (h.write hw).trans (examineWrite_cleared a l w ((congrArg HostSide.port h.host).trans hp) hcleared)

/-- In EMPTY, with no close under way, the write is examined as for its first entry. -/
theorem examinesWrite (hw : heldWrite s p d a l w) (hd : domainSound s.straps (s.domains.get d))
    (he : (s.domains.get d).state = .empty) (hclosing : (s.domains.get d).closing = false) :
    stageClear s = examinedWrite t d a l w (quietEnd p.ended) := by
  obtain ⟨hp, hk, _, hsound⟩ := id hw
  rw [holdSound, hk] at hsound
  obtain ⟨_, _, hlow, _⟩ := hsound
  have hbreaks : ¬breaks s d = true := by
    rw [breaks, he, hclosing]
    nofun
  have hkept := (h.domain d).trans (if_neg hbreaks)
  have hnil := ((domainSound_iff _ _).mp hd).group_eq_nil (by rw [he]; nofun)
  refine (h.write hw).trans (examineWrite_eq l w ((congrArg HostSide.port h.host).trans hp) (.inl ?_) ?_ ?_ h.store)
  · rw [hkept, he]
  · rw [h.power, hlow]
  · rw [hkept, hnil]
    nofun

end ClearLeaves

theorem exec_stageClear {t : State} (hf : framesSeen s) (hr : s.engine.state.isRecovering = false)
    (hb : s.engine.state.isBlocked = false) (h : stageClear s = t) (ht : noneAgain t) :
    exec (.stageClear []) s = .next (acceptedFrame 0#16 s t) := by
  refine congrArg _ (frameWith_accepted_of_noneAgain (effect := stageClearCmd) hf ?_ ht)
  unfold stageClearCmd
  split
  · next he => rw [he] at hr; cases hr
  · next he => rw [he] at hb; cases hb
  all_goals rw [h]

end StageClear

/-- Settles O22: every domain that gives up a group breaks, the flow test sees all entries that come free, and each held
access is then examined in the state that is left. -/
theorem stageClearDiscards : Obligations.StageClearDiscards := by
  intro s hf hagain hrec hblk hdom hs
  have hbroken := clearBroke_breakAll hdom
  have hbroke := hbroken.broke
  have hexec := fun t => exec_stageClear (t := t) hf hrec hblk
  have h := clearLeaves_stageCleared hdom hs
  generalize breakAll .clear s = b at hbroken hbroke h
  have ht := hbroken.stageCleared_eq
  have hfree := hbroken.freeCount_stageCleared
  have hset := hbroken.sameSettings_stageCleared
  generalize stageCleared s b = t at ht hfree hset h
  have hqueue : t.queue = keptRecords s := by rw [ht]
  have hflags : t.mgmt.flags = b.mgmt.flags := by rw [ht]
  have hcounters : t.mgmt.counters = b.mgmt.counters := by rw [ht]
  have hnone : noneAgain t := (congrArg HostSide.again h.host).trans hagain
  have hsync : discardsSync s = true ↔ ∃ g ∈ s.queue.drop t.queue.length, g.sync = true := by
    rw [discardsSync_iff, discardedRecords_eq_drop, hqueue]
  refine ⟨t, fun d => ?_, hqueue, ?_, ?_, h.host, hset, ?_, ?_, ?_, ?_, fun f hne => ?_, fun k hne => ?_, ?_,
    fun hno => ?_, fun p hp => ⟨fun hhold => ?_, fun d hk hdis => ?_, fun d tag hheld => ?_,
      fun d a l w hheld ho => ?_, fun d a l w hheld he hcl => ?_⟩⟩
  · rw [h.domain]
    exact if_congr (breaks_iff s d) rfl rfl
  · rw [ht]
  · rw [ht]
  · rw [hfree, hqueue]
  · conv_lhs => rw [ht]
  · rw [hflags, hcounters, ht]
  · rw [State.flag, hflags]; exact hbroke.broken
  · rw [State.flag, hflags]; exact hbroke.flags f hne
  · rw [hcounters]; exact hbroke.counters k hne
  · rw [hcounters]; exact hbroke.count
  · exact hexec t (h.goesOn (noneWaiting_of_not_inProgress hno) fun p _ hp => absurd hp (hno p)) hnone
  · have hquiet : p.hold.waits = false ∧ ∀ d, p.hold = .sync d → discardsSync s = false := by
      obtain hk | hk | ⟨d, hk⟩ | ⟨d, hk, hkept⟩ := hhold <;> rw [hk]
      · exact ⟨rfl, nofun⟩
      · exact ⟨rfl, nofun⟩
      · exact ⟨rfl, nofun⟩
      · refine ⟨rfl, fun _ _ => Bool.eq_false_iff.mpr fun hdis => ?_⟩
        obtain ⟨g, hg, hgs⟩ := hsync.mp hdis
        exact nomatch (hkept g hg).symm.trans hgs
    obtain ⟨hwait, hkept⟩ := hquiet
    refine hexec t (h.goesOn (noneWaiting_of_waits_eq_false hp hwait) fun q d hq hqk => ?_) hnone
    cases hp.symm.trans hq
    exact hkept d hqk
  · exact hexec _ (h.endsSync hp hk (hsync.mpr hdis)) hnone
  · have hcommit := h.commit hheld
    rw [← h.host] at hcommit
    exact hexec _ hcommit hnone
  · exact hexec _ (h.dropsWrite hheld ho) hnone
  · exact hexec _ (h.examinesWrite hheld (hdom d) he hcl) ((host_again_examinedWrite _ _ _ _ _ _).trans hnone)

end Sys2Proof.Machine
end

section
/-! PROOFS. What leaves recovery alone (R119 to R124). The place that recovery has reached and the registers that it loads
are one view of the state, which changes by the engine's own accesses and commands alone. -/

namespace Sys2Proof.Machine

/-! ### The view -/

/-- The place that recovery has reached, in the state RECOVERING alone. -/
def EngineState.place : EngineState → Option Recovery
  | .recovering r => some r
  | _ => none

/-- What `recoverySound` looks at. -/
structure Recovered where
  straps : Straps
  place : Option Recovery
  rdom : Word
  rcnt : Word

def State.recovered (s : State) : Recovered := ⟨s.straps, s.engine.state.place, s.engine.rdom, s.engine.rcnt⟩

section View

variable {s : State}

/-! ### What leaves the view alone: the shared operations -/

@[simp] theorem recovered_setFlag (f : FlagId) : (setFlag f s).recovered = s.recovered := rfl

@[simp] theorem recovered_bump (c : CounterId) : (bump c s).recovered = s.recovered := rfl

@[simp] theorem recovered_modDomain (d : Dom) (f : Domain → Domain) : (modDomain d f s).recovered = s.recovered := rfl

@[simp] theorem recovered_setHost (p : HostPort) : (setHost p s).recovered = s.recovered := rfl

@[simp] theorem recovered_postRequest (who : Requester) (r : Request) :
    (postRequest who r s).recovered = s.recovered := rfl

@[simp] theorem recovered_clearSyncFlags : (clearSyncFlags s).recovered = s.recovered := rfl

@[simp] theorem recovered_queueGroup (d : Dom) (tag : Word) (b : Bool) :
    (queueGroup d tag b s).recovered = s.recovered := rfl

@[simp] theorem recovered_setHold (k : Hold) : (setHold k s).recovered = s.recovered := by
  unfold setHold
  split <;> rfl

@[simp] theorem recovered_completeQuiet : (completeQuiet s).recovered = s.recovered := by
  unfold completeQuiet
  split <;> rfl

@[simp] theorem recovered_completeRead (w : Word) : (completeRead w s).recovered = s.recovered := by
  unfold completeRead
  split <;> rfl

@[simp] theorem recovered_dropWrite (c : DropCause) : (dropWrite c s).recovered = s.recovered :=
  recovered_completeQuiet

@[simp] theorem recovered_loadAge (d : Dom) : (loadAge d s).recovered = s.recovered := by
  unfold loadAge
  split <;> rfl

@[simp] theorem recovered_reloadIfIdle (d : Dom) : (reloadIfIdle d s).recovered = s.recovered := by
  unfold reloadIfIdle
  split <;> simp

@[simp] theorem recovered_flowAfterTake : (flowAfterTake s).recovered = s.recovered := by
  unfold flowAfterTake
  split <;> rfl

@[simp] theorem recovered_flowAfterRelease (n : Nat) : (flowAfterRelease n s).recovered = s.recovered := by
  unfold flowAfterRelease
  split <;> rfl

@[simp] theorem recovered_flowRetest : (flowRetest s).recovered = s.recovered := by
  unfold flowRetest
  split
  · simp
  · split <;> rfl

@[simp] theorem recovered_breakCore (d : Dom) (c : BreakCause) : (breakCore d c s).recovered = s.recovered := by
  unfold breakCore
  split <;> rfl

@[simp] theorem recovered_breakDomain (d : Dom) (c : BreakCause) : (breakDomain d c s).recovered = s.recovered := by
  simp [breakDomain]

@[simp] theorem recovered_breakIfOpen (d : Dom) (c : BreakCause) : (breakIfOpen c s d).recovered = s.recovered := by
  unfold breakIfOpen
  split <;> simp

@[simp] theorem recovered_breakAll (c : BreakCause) : (breakAll c s).recovered = s.recovered := by
  simp [breakAll, Ix4.all]

@[simp] theorem recovered_commitToBroken (d : Dom) : (commitToBroken d s).recovered = s.recovered := by
  simp [commitToBroken]

@[simp] theorem recovered_requestEngine : (requestEngine s).recovered = s.recovered := by
  unfold requestEngine
  split <;> rfl

/-- The head group begins where the engine is IDLE, and so no recovery goes on (R96). -/
theorem recovered_beginHead (h : canBegin s = true) : (beginHead s).recovered = s.recovered := by
  have hnew : (firstPhase s.straps).place = none := by
    unfold firstPhase
    split <;> rfl
  have hold : s.engine.state.place = none := by rw [idle_of_canBegin h]; rfl
  rw [beginHead_eq]
  simp only [State.recovered, hnew, hold]

@[simp] theorem recovered_tryBegin : (tryBegin s).recovered = s.recovered := by
  unfold tryBegin
  split
  · next h => exact recovered_beginHead h
  · rfl

@[simp] theorem recovered_completeSync : (completeSync s).recovered = s.recovered := by
  unfold completeSync
  split <;> simp

@[simp] theorem recovered_commitQueued (d : Dom) (tag : Word) : (commitQueued d tag s).recovered = s.recovered := by
  unfold commitQueued
  split <;> simp

@[simp] theorem recovered_grantCommit : (grantCommit s).recovered = s.recovered := by
  unfold grantCommit
  split
  · split <;> simp
  · rfl

@[simp] theorem recovered_grantPending (d : Dom) : (grantPending s d).recovered = s.recovered := by
  unfold grantPending
  split <;> simp

@[simp] theorem recovered_grantSlots : (grantSlots s).recovered = s.recovered := by
  simp [grantSlots, Ix4.all]

/-! ### What leaves the view alone: staged writes and examinations -/

@[simp] theorem recovered_takeCoalesce (d : Dom) (a : Addr) (l : Lanes) (w : Word) :
    (takeCoalesce d a l w s).recovered = s.recovered := by
  simp [takeCoalesce]

@[simp] theorem recovered_takeNew (d : Dom) (a : Addr) (l : Lanes) (w : Word) :
    (takeNew d a l w s).recovered = s.recovered := by
  unfold takeNew
  dsimp only
  split <;> simp

@[simp] theorem recovered_placeNow (d : Dom) (a : Addr) (l : Lanes) (w : Word) :
    (placeNow d a l w s).recovered = s.recovered := by
  unfold placeNow
  split
  · simp
  · split <;> simp

@[simp] theorem recovered_examineWrite (x : Bool) (d : Dom) (a : Addr) (l : Lanes) (w : Word) :
    (examineWrite x d a l w s).recovered = s.recovered := by
  unfold examineWrite
  split_ifs <;> simp

@[simp] theorem recovered_examineCommit (x : Bool) (d : Dom) (tag : Word) :
    (examineCommit x d tag s).recovered = s.recovered := by
  unfold examineCommit
  split_ifs <;> simp

@[simp] theorem recovered_examine (x : Bool) : (examine x s).recovered = s.recovered := by
  unfold examine
  split
  · split <;> simp
  · rfl

@[simp] theorem recovered_beginAndExamine : (beginAndExamine s).recovered = s.recovered := by
  unfold beginAndExamine
  split
  · next h => rw [recovered_examine, recovered_beginHead h]
  · rfl

/-! ### What leaves the view alone: the host's accesses -/

@[simp] theorem recovered_holdForRead (k : Hold) (a : Addr) : (holdForRead k a s).recovered = s.recovered := by
  simp [holdForRead]

@[simp] theorem recovered_stagedRead (d : Dom) (a : Addr) : (stagedRead d a s).recovered = s.recovered := by
  unfold stagedRead
  split <;> simp

@[simp] theorem recovered_classifiedRead (c : Class) (a : Addr) : (classifiedRead c a s).recovered = s.recovered := by
  cases c with
  | stage d =>
    unfold classifiedRead
    dsimp only
    split <;> simp
  | _ => simp [classifiedRead]

@[simp] theorem recovered_dropParity : (dropParity s).recovered = s.recovered := by
  simp [dropParity]

@[simp] theorem recovered_stagedWrite (d : Dom) (a : Addr) (l : Lanes) (w : Word) (bad : Bool) :
    (stagedWrite d a l w bad s).recovered = s.recovered := by
  unfold stagedWrite
  split_ifs <;> simp

@[simp] theorem recovered_abortGroup (d : Dom) : (abortGroup d s).recovered = s.recovered := by
  simp [abortGroup]

@[simp] theorem recovered_holdCommit (d : Dom) (tag : Word) : (holdCommit d tag s).recovered = s.recovered := by
  simp [holdCommit]

@[simp] theorem recovered_commitGroup (d : Dom) (tag : Word) : (commitGroup d tag s).recovered = s.recovered := by
  unfold commitGroup
  split_ifs <;> simp

@[simp] theorem recovered_commitCellWrite (d : Dom) (l : Lanes) (w : Word) (bad : Bool) :
    (commitCellWrite d l w bad s).recovered = s.recovered := by
  unfold commitCellWrite
  split_ifs <;> simp

@[simp] theorem recovered_passWrite (a : Addr) (l : Lanes) (w : Word) (bad : Bool) :
    (passWrite a l w bad s).recovered = s.recovered := by
  unfold passWrite
  split <;> simp

@[simp] theorem recovered_classifiedWrite (c : Class) (a : Addr) (l : Lanes) (w : Word) (hdp : Option (BitVec 2)) :
    (classifiedWrite c a l w hdp s).recovered = s.recovered := by
  unfold classifiedWrite
  split
  · simp
  · split <;> simp

@[simp] theorem recovered_presentAccess (a : Access) : (presentAccess a s).recovered = s.recovered := by
  unfold presentAccess
  split
  · simp
  · simp
  · split <;> simp

@[simp] theorem recovered_arrive (a : Access) : (arrive a s).recovered = s.recovered := by
  unfold arrive
  split <;> simp

@[simp] theorem recovered_releaseHeld : (releaseHeld s).recovered = s.recovered := by
  unfold releaseHeld
  split
  · split <;> simp
  · rfl

@[simp] theorem recovered_settle (before : State) : (settle before s).recovered = s.recovered := by
  unfold settle
  dsimp only
  split
  · split
    · exact recovered_arrive _
    · rfl
  · rfl

theorem recovered_seeArrival (bus : HostBus) : (seeArrival bus s).recovered = s.recovered := by
  unfold seeArrival
  split
  · simp
  · split <;> rfl
  · rfl

theorem recovered_seeReturnIdle : (seeReturnIdle s).recovered = s.recovered := by
  unfold seeReturnIdle
  split <;> rfl

theorem recovered_seeStrobesEnd : (seeStrobesEnd s).recovered = s.recovered := by
  unfold seeStrobesEnd
  split <;> rfl

theorem recovered_hostAccessDone (w : Word) : (hostAccessDone w s).recovered = s.recovered := by
  unfold hostAccessDone hostReadDone
  split
  · simp
  · split
    · split
      · rw [recovered_completeRead]
        split <;> rfl
      · simp
      · rfl
    · rfl

theorem recovered_hostTimedOut : (hostTimedOut s).recovered = s.recovered := by
  unfold hostTimedOut
  dsimp only
  split
  · exact recovered_completeQuiet
  · exact recovered_completeRead _
  · exact recovered_completeRead _
  · rfl

/-! ### What leaves the view alone: time and power -/

theorem recovered_tickHold : (tickHold s).recovered = s.recovered := by
  unfold tickHold
  split
  · split <;> rfl
  · rfl

theorem recovered_tickCounts : (tickCounts s).recovered = s.recovered := by
  refine Eq.trans ?_ recovered_tickHold
  unfold tickCounts tickArray
  dsimp only
  split <;> rfl

theorem recovered_holdExpiry : (holdExpiry s).recovered = s.recovered := by
  unfold holdExpiry
  split
  · split
    · split <;> simp
    · rfl
  · rfl

theorem recovered_ageExpiry (d : Dom) : (ageExpiry d s).recovered = s.recovered := by
  unfold ageExpiry
  split
  · dsimp only
    split
    · rfl
    · split <;> simp
    · simp
  · rfl

theorem recovered_endHeldByPower : (endHeldByPower s).recovered = s.recovered := by
  unfold endHeldByPower
  split <;> simp

theorem recovered_samplePwarn (low : Bool) : (samplePwarn low s).recovered = s.recovered := by
  unfold samplePwarn
  dsimp only
  split
  · split
    · exact recovered_beginAndExamine
    · rfl
  · split
    · rw [powerEntry, recovered_endHeldByPower, recovered_flowAfterRelease, recovered_breakAll]
      rfl
    · rfl

/-! ### The engine's operations -/

theorem recovered_goOn (e : EngineState) :
    (goOn e s).recovered = { s.recovered with place := e.place } := recovered_requestEngine

theorem recovered_enter (e : EngineState) :
    (enter e s).recovered = { s.recovered with place := e.place } :=
  (recovered_examine false).trans (recovered_goOn e)

theorem recovered_endRecovery (e : EngineState) :
    (endRecovery e s).recovered = { s.recovered with place := e.place } := recovered_releaseHeld

/-- What follows where the head has left the queue (R101, R109) touches no recovery. -/
theorem recovered_headLeft (b : Bool) :
    (grantAndBegin (if b then completeSync s else s)).recovered = s.recovered := by
  cases b <;> simp [grantAndBegin]

theorem recovered_stageClear : (stageClear s).recovered = s.recovered := by
  have hbroken : (consumeHeldCommit (breakAll .clear s)).recovered = s.recovered := by
    unfold consumeHeldCommit
    split <;> simp
  unfold stageClear
  dsimp only
  generalize consumeHeldCommit (breakAll .clear s) = u at hbroken ⊢
  rw [recovered_examine, recovered_flowAfterRelease]
  split
  · rw [recovered_completeSync]
    exact hbroken
  · exact hbroken

end View

end Sys2Proof.Machine
end

section
/-! PROOFS. Recovery's own course keeps what it holds tested: the header before its records are read, the records before
they are written home; so every step does. -/

namespace Sys2Proof.Machine

/-! ### Sound recovery -/

/-- `recoverySound` on the view. -/
structure SoundRecovery (v : Recovered) : Prop where
  rdom : v.rdom.toNat ≤ 3
  rcnt : v.rcnt.toNat ≤ 512
  holds : ∀ r, v.place = some r → recoveryHolds v.straps r

theorem Phase.place_restart (p : Phase) : p.restart.place = none := by cases p <;> rfl

theorem EngineState.place_eq_some {e : EngineState} {r : Recovery} : e.place = some r ↔ e = .recovering r := by
  cases e <;> simp [EngineState.place]

theorem recoverySound_iff (s : State) : recoverySound s ↔ SoundRecovery s.recovered :=
  ⟨fun ⟨hdom, hcnt, hr⟩ => ⟨hdom, hcnt, fun r h => hr r (EngineState.place_eq_some.mp h)⟩,
    fun ⟨hdom, hcnt, hr⟩ => ⟨hdom, hcnt, fun r h => hr r (EngineState.place_eq_some.mpr h)⟩⟩

/-- A header that has been read and has passed its tests (R120, R121). -/
structure TestedHeader (st : Straps) (h : List Word) : Prop where
  length : h.length = 8
  marker : wordAt h 0 = Config.validMarker
  valid : headerValid st h = true

theorem headerValid_iff (st : Straps) (h : List Word) : headerValid st h = true ↔
    crc (h.take 7) = wordAt h 7 ∧ 1 ≤ (wordAt h 3).toNat ∧ (wordAt h 3).toNat ≤ journalRecords st
      ∧ (wordAt h 2).toNat ≤ 3 := by
  simp only [headerValid, Bool.and_eq_true, beq_iff_eq, decide_eq_true_eq, and_assoc]

theorem recordsValid_iff (st : Straps) (h ws : List Word) : recordsValid st h ws = true ↔
    crc ws = wordAt h 6 ∧ tagFlagsValid (recordsOfWords ws) = true
      ∧ ∀ r ∈ recordsOfWords ws, r.addr.toNat < journalBase st := by
  simp only [recordsValid, Bool.and_eq_true, beq_iff_eq, List.all_eq_true, decide_eq_true_eq, and_assoc]

theorem journalRecords_le (st : Straps) : journalRecords st ≤ 512 := by
  unfold journalRecords
  split_ifs <;> decide

namespace SoundRecovery

variable {v : Recovered} {s t : State}

/-- The engine is at a place of recovery at which what it holds has passed its tests. -/
theorem goesOn (h : SoundRecovery v) {r : Recovery} (hr : recoveryHolds v.straps r) :
    SoundRecovery { v with place := some r } :=
  ⟨h.rdom, h.rcnt, fun r' he => by cases he; exact hr⟩

/-- The engine is in no recovery. -/
theorem leaves (h : SoundRecovery v) : SoundRecovery { v with place := none } :=
  ⟨h.rdom, h.rcnt, nofun⟩

/-! ### The engine's operations -/

/-- The head has left the queue, and the engine is IDLE. -/
theorem headLeaves (b : Bool) (n : Nat) (h : SoundRecovery s.recovered) :
    SoundRecovery
      (grantAndBegin (if b then completeSync (flowAfterRelease n s) else flowAfterRelease n s)).recovered := by
  rw [recovered_headLeft, recovered_flowAfterRelease]
  exact h

theorem retire (h : SoundRecovery s.recovered) : SoundRecovery (retire s).recovered := by
  cases hq : s.queue with
  | nil =>
    rw [Machine.retire, hq]
    exact h
  | cons g rest =>
    rw [Machine.retire, hq]
    exact headLeaves g.sync _ h.leaves

theorem abandonHead (h : SoundRecovery s.recovered) : SoundRecovery (abandonHead s).recovered := by
  cases hq : s.queue with
  | nil =>
    rw [Machine.abandonHead, hq]
    exact h
  | cons g rest =>
    rw [Machine.abandonHead, hq]
    exact headLeaves g.sync _ h.leaves

/-- The engine goes on to a state of an apply, or to one in which it rests. -/
theorem goOn_out {e : EngineState} (h : SoundRecovery s.recovered) (he : e.place = none) :
    SoundRecovery (goOn e s).recovered := by
  rw [recovered_goOn, he]
  exact h.leaves

theorem enter_out {e : EngineState} (h : SoundRecovery s.recovered) (he : e.place = none) :
    SoundRecovery (enter e s).recovered := by
  rw [recovered_enter, he]
  exact h.leaves

theorem copyingDone (i w : Nat) (h : SoundRecovery s.recovered) : SoundRecovery (copyingDone i w s).recovered := by
  unfold Machine.copyingDone
  split
  · exact h.goOn_out rfl
  · split
    · exact h.goOn_out rfl
    · exact h.enter_out rfl

theorem markingDone (k : Nat) (h : SoundRecovery s.recovered) : SoundRecovery (markingDone k s).recovered := by
  unfold Machine.markingDone
  split
  · exact h.enter_out rfl
  · split
    · exact h.goOn_out rfl
    · exact h.goOn_out rfl

theorem homingDone (i : Nat) (h : SoundRecovery s.recovered) : SoundRecovery (homingDone i s).recovered := by
  unfold Machine.homingDone
  split
  · exact h.goOn_out rfl
  · split
    · exact h.enter_out rfl
    · exact h.retire

/-! ### Recovery -/

theorem goOn_recovering {r : Recovery} (h : SoundRecovery s.recovered) (hr : recoveryHolds s.straps r) :
    SoundRecovery (goOn (.recovering r) s).recovered := by
  rw [recovered_goOn]
  exact h.goesOn hr

theorem endRecovery {e : EngineState} (h : SoundRecovery s.recovered) (he : e.place = none) :
    SoundRecovery (endRecovery e s).recovered := by
  rw [recovered_endRecovery, he]
  exact h.leaves

theorem failRecovery (c : BlockCause) (h : SoundRecovery s.recovered) : SoundRecovery (failRecovery c s).recovered :=
  endRecovery (s := setFlag .recfail s) h rfl

/-- The records still to go home are a rest of those before, the first of them with a lane (R123). -/
theorem replayOn {hd : List Word} {rest : List JournalRecord} (h : SoundRecovery s.recovered)
    (hh : TestedHeader s.straps hd) (hrest : ∀ r ∈ rest, r.addr.toNat < journalBase s.straps) :
    SoundRecovery (replayOn hd rest s).recovered := by
  unfold Machine.replayOn
  split
  · exact h.goOn_recovering ⟨hh.length, hh.marker, hh.valid⟩
  · next r rs hskip =>
    have hsub : ∀ x ∈ r :: rs, x ∈ rest := hskip ▸ fun _ hx => (List.dropWhile_sublist _).mem hx
    have hlane : r.lanes.isEmpty = false := by
      have hhead := List.head?_dropWhile_not (fun r : JournalRecord => r.lanes.isEmpty) rest
      rw [show rest.dropWhile _ = r :: rs from hskip] at hhead
      exact hhead
    refine h.goOn_recovering ⟨hh.length, hh.marker, hh.valid, nofun, fun x hx => hrest x (hsub x hx), fun x hx => ?_⟩
    cases hx
    exact hlane

/-- The whole header is tested before the first record is read, so there is one to read (R121). -/
theorem headerRead {hd : List Word} (h : SoundRecovery s.recovered) (hpos : 1 ≤ hd.length) (hle : hd.length ≤ 8)
    (hm : wordAt hd 0 = Config.validMarker) : SoundRecovery (headerRead hd s).recovered := by
  unfold Machine.headerRead
  split
  · next hlt => exact h.goOn_recovering ⟨hpos, hlt, hm⟩
  · next hge =>
    split
    · next hv =>
      obtain ⟨_, hcount, _⟩ := (headerValid_iff _ _).mp hv
      exact h.goOn_recovering ⟨by omega, hm, hv, show 0 < 3 * (wordAt hd 3).toNat by omega⟩
    · exact h.failRecovery .check

/-- The records are tested before the first goes home (R122). -/
theorem recordRead {hd : List Word} (ws : List Word) (h : SoundRecovery s.recovered) (hh : TestedHeader s.straps hd) :
    SoundRecovery (recordRead hd ws s).recovered := by
  unfold Machine.recordRead
  split
  · next hlt => exact h.goOn_recovering ⟨hh.length, hh.marker, hh.valid, hlt⟩
  · split
    · next hv =>
      obtain ⟨_, _, hbelow⟩ := (recordsValid_iff _ _ _).mp hv
      exact h.replayOn hh hbelow
    · exact h.failRecovery .check

/-- The registers take words that have passed their tests: a domain, and a record count (R121, R124). -/
theorem replayDone {hd : List Word} (hh : TestedHeader s.straps hd) : SoundRecovery (replayDone hd s).recovered := by
  obtain ⟨_, _, hcount, hdom⟩ := (headerValid_iff _ _).mp hh.valid
  rw [Machine.replayDone, recovered_endRecovery]
  exact ⟨hdom, hcount.trans (journalRecords_le _), nofun⟩

theorem recoveryDone {r : Recovery} (w : Word) (h : SoundRecovery s.recovered) (hr : recoveryHolds s.straps r) :
    SoundRecovery (recoveryDone r w s).recovered := by
  cases r with
  | marker =>
    unfold Machine.recoveryDone
    dsimp only
    split
    · next hw => exact h.headerRead (Nat.le_refl 1) (Nat.le_of_ble_eq_true rfl) hw
    · exact h.endRecovery rfl
  | header hd =>
    obtain ⟨_, hlt, hm⟩ := hr
    refine h.headerRead ?_ ?_ (wordAt_zero_append w hm) <;> rw [List.length_append, List.length_singleton] <;> omega
  | records hd ws =>
    obtain ⟨hlen, hm, hv, _⟩ := hr
    exact h.recordRead _ ⟨hlen, hm, hv⟩
  | replay hd rest =>
    obtain ⟨hlen, hm, hv, _, hbelow, _⟩ := hr
    exact h.replayOn ⟨hlen, hm, hv⟩ fun x hx => hbelow x (List.mem_of_mem_tail hx)
  | finish hd =>
    obtain ⟨hlen, hm, hv⟩ := hr
    exact replayDone ⟨hlen, hm, hv⟩

/-- RECOVERING is entered with the recovery registers cleared and nothing held (R119). -/
theorem startRecovery (s : State) : SoundRecovery (startRecovery s).recovered := by
  rw [Machine.startRecovery, recovered_goOn]
  exact ⟨Nat.zero_le _, Nat.zero_le _, fun r hr => by cases hr; trivial⟩

/-! ### The ends of array accesses -/

theorem engineAccessDone (w : Word) (h : SoundRecovery s.recovered) :
    SoundRecovery (engineAccessDone w s).recovered := by
  unfold Machine.engineAccessDone
  split
  · next r he => exact h.recoveryDone w (h.holds r (EngineState.place_eq_some.mpr he))
  · split
    · exact h.leaves
    · exact h
  · exact h
  · exact h.copyingDone _ _
  · exact h.markingDone _
  · exact h.homingDone _
  · exact h.retire
  · exact h

theorem fault (p : Phase) (i : Nat) (h : SoundRecovery s.recovered) : SoundRecovery (fault p i s).recovered := by
  rw [Machine.fault, recovered_examine]
  exact h.leaves

theorem engineTimedOut (h : SoundRecovery s.recovered) : SoundRecovery (engineTimedOut s).recovered := by
  have h1 : SoundRecovery (setFlag .array { s with port := { s.port with arrsrc := .engine } }).recovered := h
  unfold Machine.engineTimedOut
  dsimp only
  split
  · exact h1.failRecovery .array
  · split <;> exact h1.leaves
  · exact h1
  · exact h1.fault _ _
  · exact h1.fault _ _
  · exact h1.fault _ _
  · exact h1.fault _ _
  · exact h1

theorem accessComplete (ad : Option Word) (h : SoundRecovery s.recovered) :
    SoundRecovery (accessComplete ad s).recovered := by
  unfold Machine.accessComplete
  split
  · exact h
  · dsimp only
    split
    · rw [recovered_hostAccessDone]
      exact h
    · exact engineAccessDone (s := { s with array := _, port := s.port.finish }) _ h
    · exact h

theorem accessTimeout (left : Option Word) (h : SoundRecovery s.recovered) :
    SoundRecovery (accessTimeout left s).recovered := by
  unfold Machine.accessTimeout
  split
  · exact h
  · split
    · dsimp only
      split
      · rw [recovered_hostTimedOut]
        exact h
      · exact engineTimedOut (s := { s with array := _, port := s.port.finish }) h
      · exact h
    · exact h

theorem takeExpiry (e : Expiry) (h : SoundRecovery s.recovered) : SoundRecovery (takeExpiry s e).recovered := by
  rw [Machine.takeExpiry, recovered_settle]
  cases e with
  | hold => exact recovered_holdExpiry (s := s) ▸ h
  | array left => exact h.accessTimeout left
  | age d => exact recovered_ageExpiry (s := s) d ▸ h

theorem takeEvent (e : Event) (h : SoundRecovery s.recovered) : SoundRecovery (takeEvent s e).recovered := by
  cases e with
  | hostArrival bus => exact recovered_seeArrival (s := s) bus ▸ h
  | hostReturnIdle => exact recovered_seeReturnIdle (s := s) ▸ h
  | hostStrobesEndEarly => exact recovered_seeStrobesEnd (s := s) ▸ h
  | holdExpiry => exact h.takeExpiry .hold
  | arrayComplete ad =>
    rw [Machine.takeEvent, takeArdy, recovered_settle]
    exact h.accessComplete ad
  | arrayTimeout left => exact h.takeExpiry (.array left)
  | tick low early =>
    have hcounts : SoundRecovery (tickCounts s).recovered := recovered_tickCounts (s := s) ▸ h
    have hearly : SoundRecovery (early.foldl Machine.takeExpiry (tickCounts s)).recovered :=
      List.foldlRecOn (motive := fun u : State => SoundRecovery u.recovered) early _ hcounts
        fun _ hu e _ => hu.takeExpiry e
    rw [Machine.takeEvent, tickStep, recovered_settle, recovered_samplePwarn]
    exact hearly
  | ageExpiry d => exact h.takeExpiry (.age d)

/-! ### Management writes -/

/-- RECOVER_RETRY enters RECOVERING anew, the other engine commands none (R106, R128). -/
theorem ecmdWrite (code : Word) (h : SoundRecovery s.recovered) : SoundRecovery (ecmdWrite code s).2.recovered := by
  unfold Machine.ecmdWrite
  split
  · exact h
  · unfold holdOffCmd
    split
    · rw [recovered_beginAndExamine]
      exact h
    · exact h
  · unfold retryCmd
    split
    · exact h.enter_out (Phase.place_restart _)
    · exact h
  · unfold abandonHeadCmd
    split
    · exact h.abandonHead
    · exact h
  · unfold stageClearCmd
    split
    · exact h
    · exact h
    all_goals exact recovered_stageClear (s := s) ▸ h
  · unfold recoverRetryCmd
    split
    · split
      · exact h
      · exact startRecovery s
    · exact h
  · unfold journalDiscardCmd
    split
    · split
      · exact h
      · exact h.goOn_out rfl
    · exact h
  · exact h

theorem thresholdWrite {v : State} (h : SoundRecovery s.recovered) (hv : v.recovered = s.recovered) :
    SoundRecovery (examine false (flowRetest v)).recovered := by
  rw [recovered_examine, recovered_flowRetest, hv]
  exact h

theorem either {c : Prop} [Decidable c] {a b : Status × State} (ha : SoundRecovery a.2.recovered)
    (hb : SoundRecovery b.2.recovered) : SoundRecovery (if c then a else b).2.recovered :=
  keep_ite (P := fun u => SoundRecovery u.recovered) ha hb

/-- Of the registers ECMD alone reaches recovery; a threshold write makes an examination. -/
theorem writeReg (r : Reg) (data : Word) (h : SoundRecovery s.recovered) :
    SoundRecovery (writeReg r data s).2.recovered := by
  cases r with
  | ecmd => exact h.ecmdWrite data
  | stalllvl => exact either h (h.thresholdWrite rfl)
  | resumelvl => exact either h (h.thresholdWrite rfl)
  | holdlim | arrto | starve | agechain | hset | agerld => exact either h h
  | jaddr | ceil | winlim => exact either h (either h h)
  | cchi => exact either h (either h (either h h))
  | hact =>
    unfold Machine.writeReg hactWrite
    dsimp only
    split
    · exact h
    · exact either h h
  | defact =>
    unfold Machine.writeReg defactWrite
    dsimp only
    split
    · exact h
    · exact either h h
  | winbase i =>
    unfold Machine.writeReg winbaseWrite
    dsimp only
    split
    · exact h
    · exact either h (either h h)
  | dctl d =>
    obtain e | ⟨act, e | ⟨_, e⟩ | ⟨_, e⟩⟩ := dctlWrite_cases d data s <;>
      exact (congrArg (fun u : State => SoundRecovery u.recovered) e).mpr h
  | _ => exact h

/-! ### Every step -/

theorem cold (st : Straps) (held : Bool) (array : List Host.Cell) (pending : List Instr) :
    SoundRecovery (requestEngine (State.cold st held array pending)).recovered := by
  rw [recovered_requestEngine]
  refine ⟨Nat.zero_le _, Nat.zero_le _, fun r hr => ?_⟩
  have hr := EngineState.place_eq_some.mp hr
  obtain he | he := state_cold st
  · cases he.symm.trans hr
  · cases he.symm.trans hr
    trivial

theorem keptByCourses : KeptByCourses fun s => SoundRecovery s.recovered where
  mgmt _ _ h := h
  pending _ _ h := h
  event _ e h := h.takeEvent e
  settle before s h := recovered_settle (s := s) before ▸ h
  reset := cold
  writeReg _ r data h := h.writeReg r data

end SoundRecovery

/-- Settles O55: recovery goes on by its own reads and writes alone, each of which adds one tested word or record, and its
registers take words of a header that has passed its tests. -/
theorem stepsKeepRecoverySound : Obligations.StepsKeepRecoverySound := by
  intro s t hs h
  exact (recoverySound_iff t).mpr (SoundRecovery.keptByCourses.step h ((recoverySound_iff s).mp hs))

end Sys2Proof.Machine
end

section
/-! PROOFS. Recovery's course, access by access: what each word read and each write done leads to, and what becomes then
of the host access held through it. -/

namespace Sys2Proof.Machine

section Course

variable {s : State} {a : ArrayAccess}

/-! ### Where each word leads -/

theorem headerRead_goesOn {h : List Word} (hlt : h.length < 8) : headerRead h s = goOn (.recovering (.header h)) s :=
  if_pos hlt

theorem headerRead_valid {h : List Word} (hlen : h.length = 8) (hv : headerValid s.straps h = true) :
    headerRead h s = goOn (.recovering (.records h [])) s := by
  rw [headerRead, if_neg (Nat.not_lt.mpr hlen.ge), if_pos hv]

theorem headerRead_invalid {h : List Word} (hlen : h.length = 8) (hv : headerValid s.straps h = false) :
    headerRead h s = failRecovery .check s := by
  rw [headerRead, if_neg (Nat.not_lt.mpr hlen.ge), if_neg (Bool.eq_false_iff.mp hv)]

theorem recordRead_goesOn {h ws : List Word} (hlt : ws.length < 3 * (wordAt h 3).toNat) :
    recordRead h ws s = goOn (.recovering (.records h ws)) s := if_pos hlt

theorem recordRead_valid {h ws : List Word} (hlen : ws.length = 3 * (wordAt h 3).toNat)
    (hv : recordsValid s.straps h ws = true) : recordRead h ws s = replayOn h (recordsOfWords ws) s := by
  rw [recordRead, if_neg (Nat.not_lt.mpr hlen.ge), if_pos hv]

theorem recordRead_invalid {h ws : List Word} (hlen : ws.length = 3 * (wordAt h 3).toNat)
    (hv : recordsValid s.straps h ws = false) : recordRead h ws s = failRecovery .check s := by
  rw [recordRead, if_neg (Nat.not_lt.mpr hlen.ge), if_neg (Bool.eq_false_iff.mp hv)]

/-- With no record left that has a lane, the journal is emptied (R124). -/
theorem replayOn_passed {h : List Word} {passed : List JournalRecord} (hp : ∀ r ∈ passed, r.lanes.isEmpty = true) :
    replayOn h passed s = goOn (.recovering (.finish h)) s := by
  have hskip : skipEmpty passed = [] := List.dropWhile_eq_nil_iff.mpr hp
  rw [replayOn, hskip]

/-- Records with an empty lane mask are passed over, and the next goes home (R123). -/
theorem replayOn_next {h : List Word} {passed : List JournalRecord} {r : JournalRecord} {rest : List JournalRecord}
    (hp : ∀ r ∈ passed, r.lanes.isEmpty = true) (hr : r.lanes.isEmpty = false) :
    replayOn h (passed ++ r :: rest) s = goOn (.recovering (.replay h (r :: rest))) s := by
  have hskip : skipEmpty (passed ++ r :: rest) = r :: rest := by
    rw [skipEmpty, List.dropWhile_append_of_pos hp]
    exact List.dropWhile_cons_of_neg (Bool.eq_false_iff.mp hr)
  rw [replayOn, hskip]

/-- With no host access in progress the end of recovery is a change of the engine's state (R120, R124, R125). -/
theorem endRecovery_of_no_access (e : EngineState) (h : ∀ p, s.host.port ≠ .inProgress p) :
    endRecovery e s = setEngine e s := releaseHeld_of_no_access (s := setEngine e s) h

theorem replayDone_of_no_access (h : List Word) (hno : ∀ p, s.host.port ≠ .inProgress p) : replayDone h s = { s with
    engine := { s.engine with
      state := .idle, rseq := wordAt h 1, rdom := wordAt h 2, rtag := wordAt h 4, rcnt := wordAt h 3,
      seq := wordAt h 1 + 1#16 }
    mgmt := s.mgmt.noted [.recovered] [] } :=
  endRecovery_of_no_access (s := setFlag .recovered { s with engine := _ }) .idle hno

/-! ### The end of an access of recovery -/

theorem accessComplete_engineRead (ad : Option Word) (ha : s.port.access = some a) (hw : a.requester = .engine)
    (hk : a.request.kind = .read) : accessComplete ad s
      = engineAccessDone (ad.getD (Memory.word s.array a.request.addr)) { s with port := s.port.finish } := by
  simp only [accessComplete, ha, hw, hk]

theorem engineAccessDone_recovering {r : Recovery} (w : Word) (h : s.engine.state = .recovering r) :
    engineAccessDone w s = recoveryDone r w s := by
  rw [engineAccessDone, h]

theorem engineAccessDone_discarding {c : BlockCause} (w : Word) (h : s.engine.state = .blocked c true) :
    engineAccessDone w s = setEngine .idle s := by
  rw [engineAccessDone, h]
  rfl

/-- With no host access in progress no completion returns the Host Port to IDLE (R65). -/
theorem exec_arrayAccessComplete_of_no_access {t : State} {ad : Option Word} (hno : ∀ p, s.host.port ≠ .inProgress p)
    (h : accessComplete ad s = t) : exec (.arrayAccessComplete ad) s = .next t := by
  have hsettle : settle s t = t := by
    unfold settle
    split
    · next hp _ _ => exact absurd hp (hno _)
    · rfl
  rw [exec_arrayAccessComplete, takeArdy, h, hsettle]

/-- Where the engine goes on, the access that it requests is the one at the port (R103). -/
theorem recoveryGoesOn_of_goOn {m : List Host.Cell} {r : Recovery} {ad : Option Word} (ha : s.port.access = some a)
    (hw : a.requester = .engine) (hs : engineSound s) (hno : ∀ p, s.host.port ≠ .inProgress p)
    (h : accessComplete ad s = goOn (.recovering r) { s with array := m, port := s.port.finish }) :
    recoveryGoesOn ad m r s := by
  have hfree := ((engineSound_iff s).mp hs).access.finish ha hw
  have hsound : SoundEngine (goOn (.recovering r) { s with array := m, port := s.port.finish }) :=
    soundEngine_requestEngine (s := setEngine (.recovering r) { s with array := m, port := s.port.finish }) hfree nofun
  have heq := goOn_eq (.recovering r) { s with array := m, port := s.port.finish }
  refine ⟨_, exec_arrayAccessComplete_of_no_access hno h, heq, hsound.access.outstanding.trans ?_⟩
  rw [heq]
  rfl

theorem recoveryFailsCheck_of_failRecovery {ad : Option Word} (hno : ∀ p, s.host.port ≠ .inProgress p)
    (h : accessComplete ad s = failRecovery .check { s with port := s.port.finish }) : recoveryFailsCheck ad s :=
  exec_arrayAccessComplete_of_no_access hno
    (h.trans (endRecovery_of_no_access (s := setFlag .recfail { s with port := s.port.finish }) _ hno))

end Course

/-! ### A host access held through recovery -/

/-- The state with the access `p` held at the Host Port: it goes on so while the engine is RECOVERING, and else it is
released (R74). -/
def resumed (p : Progress) (u : State) : State :=
  if u.engine.state.isRecovering then setHost (.inProgress p) u else releaseHeld (setHost (.inProgress p) u)

/-- An effect at a Host Port in IDLE gives `u`, and under the access `p` held for recovery it gives `t`: the same, but for
the access. -/
structure Resumes (p : Progress) (s u t : State) : Prop where
  idle : u.host.port = .idle
  straps : u.straps = s.straps
  held : t = resumed p u

theorem Resumes.of_straps {p : Progress} {r s u t : State} (h : Resumes p r u t) (hr : r.straps = s.straps) :
    Resumes p s u t := ⟨h.idle, h.straps.trans hr, h.held⟩

section Held

variable {s : State} {p : Progress} (hidle : s.host.port = .idle)

theorem requestEngine_setHost (q : HostPort) (s : State) :
    requestEngine (setHost q s) = setHost q (requestEngine s) := by
  have hreq : engineRequest (setHost q s) = engineRequest s := rfl
  unfold requestEngine
  rw [hreq]
  split <;> rfl

include hidle

/-- What touches neither the engine nor the Host Port leaves the access held. -/
theorem resumes_kept {u : State} (hhost : u.host = s.host) (hstraps : u.straps = s.straps)
    (hrec : u.engine.state.isRecovering = true) : Resumes p s u (setHost (.inProgress p) u) :=
  ⟨by rw [hhost, hidle], hstraps, (if_pos hrec).symm⟩

theorem resumes_goOn (r : Recovery) :
    Resumes p s (goOn (.recovering r) s) (goOn (.recovering r) (setHost (.inProgress p) s)) := by
  have hgo : goOn (.recovering r) (setHost (.inProgress p) s) = setHost (.inProgress p) (goOn (.recovering r) s) :=
    requestEngine_setHost _ (setEngine (.recovering r) s)
  rw [hgo]
  have heq := goOn_eq (.recovering r) s
  exact resumes_kept hidle (by rw [heq]) (by rw [heq]) (by rw [heq]; rfl)

theorem resumes_endRecovery {e : EngineState} (he : e.isRecovering = false) :
    Resumes p s (endRecovery e s) (endRecovery e (setHost (.inProgress p) s)) := by
  have hend := endRecovery_of_no_access (s := s) e fun q hq => nomatch hidle.symm.trans hq
  rw [hend]
  exact ⟨hidle, rfl, (if_neg (Bool.eq_false_iff.mp he)).symm⟩

theorem resumes_failRecovery (c : BlockCause) :
    Resumes p s (failRecovery c s) (failRecovery c (setHost (.inProgress p) s)) :=
  (resumes_endRecovery (s := setFlag .recfail s) hidle rfl).of_straps rfl

theorem resumes_replayOn (h : List Word) (rest : List JournalRecord) :
    Resumes p s (replayOn h rest s) (replayOn h rest (setHost (.inProgress p) s)) := by
  unfold replayOn
  split <;> exact resumes_goOn hidle _

theorem resumes_headerRead (h : List Word) :
    Resumes p s (headerRead h s) (headerRead h (setHost (.inProgress p) s)) := by
  unfold headerRead
  rw [setHost_straps]
  split_ifs
  · exact resumes_goOn hidle _
  · exact resumes_goOn hidle _
  · exact resumes_failRecovery hidle .check

theorem resumes_recordRead (h ws : List Word) :
    Resumes p s (recordRead h ws s) (recordRead h ws (setHost (.inProgress p) s)) := by
  unfold recordRead
  rw [setHost_straps]
  split_ifs
  · exact resumes_goOn hidle _
  · exact resumes_replayOn hidle h _
  · exact resumes_failRecovery hidle .check

theorem resumes_recoveryDone (r : Recovery) (w : Word) :
    Resumes p s (recoveryDone r w s) (recoveryDone r w (setHost (.inProgress p) s)) := by
  cases r with
  | marker =>
    unfold recoveryDone
    dsimp only
    split_ifs
    · exact resumes_headerRead hidle _
    · exact resumes_endRecovery hidle rfl
  | header read => exact resumes_headerRead hidle _
  | records h read => exact resumes_recordRead hidle h _
  | replay h rest => exact resumes_replayOn hidle h _
  | finish h =>
    exact (resumes_endRecovery (s := setFlag .recovered { s with engine := _ }) hidle rfl).of_straps rfl

end Held

section Release

variable {s u : State} {p : Progress}

/-- What goes on at the array port under a host access held for recovery is none of it. -/
theorem hostAccessDone_of_recovery (w : Word) (hp : s.host.port = .inProgress p) (hk : p.hold = .recovery) :
    hostAccessDone w s = s := by
  simp only [hostAccessDone, heldFor, hostReadDone, hp, hk]

theorem hostAccessDone_of_idle (w : Word) (hidle : s.host.port = .idle) : hostAccessDone w s = s := by
  simp only [hostAccessDone, heldFor, hostReadDone, hidle]

theorem resumes_engineTimedOut (hidle : s.host.port = .idle) (hrec : s.engine.state.isRecovering = true) :
    Resumes p s (engineTimedOut s) (engineTimedOut (setHost (.inProgress p) s)) := by
  unfold engineTimedOut
  rw [setHost_engine]
  cases he : s.engine.state with
  | recovering r =>
    exact (resumes_failRecovery (s := setFlag .array { s with port := { s.port with arrsrc := .engine } }) hidle
      .array).of_straps rfl
  | _ => rw [he] at hrec; cases hrec

theorem resumes_hostTimedOut (hidle : s.host.port = .idle) (hrec : s.engine.state.isRecovering = true)
    (hk : p.hold = .recovery) : Resumes p s (hostTimedOut s) (hostTimedOut (setHost (.inProgress p) s)) := by
  have hu : hostTimedOut s = setFlag .array { s with port := { s.port with arrsrc := .host } } := by
    simp only [hostTimedOut, heldFor, setFlag, hidle]
  have ht : hostTimedOut (setHost (.inProgress p) s)
      = setHost (.inProgress p) (setFlag .array { s with port := { s.port with arrsrc := .host } }) := by
    simp only [hostTimedOut, heldFor, setFlag, setHost, hk]
  rw [hu, ht]
  exact resumes_kept hidle rfl rfl hrec

theorem resumes_engineAccessDone (w : Word) (hidle : s.host.port = .idle) (hrec : s.engine.state.isRecovering = true) :
    Resumes p s (engineAccessDone w s) (engineAccessDone w (setHost (.inProgress p) s)) := by
  cases he : s.engine.state with
  | recovering r =>
    rw [engineAccessDone_recovering w he, engineAccessDone_recovering (s := setHost (.inProgress p) s) w he]
    exact resumes_recoveryDone hidle r w
  | _ => rw [he] at hrec; cases hrec

theorem resumes_hostAccessDone (w : Word) (hidle : s.host.port = .idle) (hrec : s.engine.state.isRecovering = true)
    (hk : p.hold = .recovery) :
    Resumes p s (hostAccessDone w s) (hostAccessDone w (setHost (.inProgress p) s)) := by
  rw [hostAccessDone_of_idle w hidle, hostAccessDone_of_recovery w rfl hk]
  exact resumes_kept hidle rfl rfl hrec

theorem resumes_accessComplete (ad : Option Word) (hidle : s.host.port = .idle)
    (hrec : s.engine.state.isRecovering = true) (hk : p.hold = .recovery) :
    Resumes p s (accessComplete ad s) (accessComplete ad (setHost (.inProgress p) s)) := by
  unfold accessComplete
  rw [setHost_port]
  cases s.port.access with
  | none => exact resumes_kept hidle rfl rfl hrec
  | some a =>
    cases hw : a.requester with
    | host =>
      simp only [hw]
      exact (resumes_hostAccessDone (s := { s with array := _, port := s.port.finish }) _ hidle hrec hk).of_straps rfl
    | engine =>
      simp only [hw]
      exact (resumes_engineAccessDone (s := { s with array := _, port := s.port.finish }) _ hidle hrec).of_straps rfl
    | mgmt =>
      simp only [hw]
      exact resumes_kept (s := s) hidle rfl rfl hrec

theorem resumes_accessTimeout (left : Option Word) (hidle : s.host.port = .idle)
    (hrec : s.engine.state.isRecovering = true) (hk : p.hold = .recovery) :
    Resumes p s (accessTimeout left s) (accessTimeout left (setHost (.inProgress p) s)) := by
  have hkept : Resumes p s s (setHost (.inProgress p) s) := resumes_kept hidle rfl rfl hrec
  unfold accessTimeout
  rw [setHost_port]
  cases s.port.access with
  | none => exact hkept
  | some a =>
    dsimp only
    split
    · cases a.requester with
      | host =>
        exact (resumes_hostTimedOut (s := { s with array := _, port := s.port.finish }) hidle hrec hk).of_straps rfl
      | engine =>
        exact (resumes_engineTimedOut (s := { s with array := _, port := s.port.finish }) hidle hrec).of_straps rfl
      | mgmt => exact resumes_kept (s := s) hidle rfl rfl hrec
    · exact hkept

/-- The end of the strobes commutes with what never looks at them (R65). -/
theorem indifferent.endedEarly {f : State → State} (hf : indifferent f) (s : State) :
    f (endedEarly s) = endedEarly (f s) := by
  have hnow : seenAs true s.host.again (f s) = Machine.endedEarly (f s) := by
    rw [← hf.again s]
    rfl
  exact (hf true s.host.again s).trans hnow

/-- A release is an arrival of the access at that moment, under strobes that may have ended early (R65, R74). -/
theorem resumed_released {bus : HostBus} (hidle : u.host.port = .idle) (hrec : u.engine.state.isRecovering = false)
    (hk : p.hold = .recovery) (hc : capture u.straps.hpar bus = some p.access) :
    resumed p u = if p.ended then endedEarly (seeArrival bus u) else seeArrival bus u := by
  have hpresent : indifferent (presentAccess p.access) := fun early again s => presentAccess_seenAs early again s p.access
  have harrive : seeArrival bus u = presentAccess p.access (setHost (heldNow p.access .deciding) u) := by
    rw [seeArrival_idle hidle hc, arrive, if_neg (Bool.eq_false_iff.mp hrec)]
    rfl
  have hrelease : resumed p u = presentAccess p.access
      (setHost (.inProgress { p with hold := .deciding, count := 0, due := false }) u) := by
    rw [resumed, if_neg (Bool.eq_false_iff.mp hrec)]
    simp only [releaseHeld, setHost, hk]
  rw [hrelease, harrive]
  obtain ⟨acc, hold, count, due, ended⟩ := p
  cases ended with
  | false => rfl
  | true => exact hpresent.endedEarly (setHost (heldNow acc .deciding) u)

/-- The end of an access at the array port: a completion, or a timeout. -/
theorem exec_endsAccess {c : Instr} (hc : (∃ ad, c = .arrayAccessComplete ad) ∨ ∃ left, c = .arrayTimeout left) :
    ∃ f : State → State, indifferent f ∧ (∀ s, exec c s = .next (settle s (f s)))
      ∧ ∀ (s : State) (p : Progress), s.host.port = .idle → s.engine.state.isRecovering = true →
          p.hold = .recovery → Resumes p s (f s) (f (setHost (.inProgress p) s)) := by
  obtain ⟨ad, rfl⟩ | ⟨left, rfl⟩ := hc
  · exact ⟨accessComplete ad, indifferent_accessComplete ad, fun _ => rfl, fun _ _ => resumes_accessComplete ad⟩
  · exact ⟨accessTimeout left, indifferent_expire (.array left), fun _ => rfl, fun _ _ => resumes_accessTimeout left⟩

theorem setHost_inProgress_idle (hp : s.host.port = .inProgress p) :
    setHost (.inProgress p) (setHost .idle s) = s := by
  simp only [setHost, ← hp]

/-- The host access held through recovery, at the end of an access: it goes on so, or it is taken as if it arrived then
(R74). -/
theorem exec_under_held {c : Instr} {bus : HostBus}
    (hc : (∃ ad, c = .arrayAccessComplete ad) ∨ ∃ left, c = .arrayTimeout left)
    (hrec : s.engine.state.isRecovering = true) (hp : s.host.port = .inProgress p) (hk : p.hold = .recovery)
    (hagain : noneAgain s) (hbus : capture s.straps.hpar bus = some p.access)
    (hu : exec c (setHost .idle s) = .next u) :
    exec c s = .next (if u.engine.state.isRecovering then setHost (.inProgress p) u
      else if p.ended then endedEarly (seeArrival bus u) else seeArrival bus u) := by
  obtain ⟨f, hf, hexec, hresumes⟩ := exec_endsAccess hc
  obtain ⟨hidle, hstraps, hheld⟩ := hresumes (setHost .idle s) p rfl hrec hk
  rw [setHost_inProgress_idle hp] at hheld
  rw [hexec, settle_of_same_port (hidle.trans rfl)] at hu
  cases hu
  rw [hexec, settle_of_noneAgain s (hf.noneAgain hagain), hheld]
  congr 1
  split
  · next hgo => exact if_pos hgo
  · next hend => exact resumed_released hidle (Bool.eq_false_iff.mpr hend) hk (hstraps ▸ hbus)

end Release

/-! ### What each read leads to -/

section Access

variable {s : State} {a : ArrayAccess} {ad : Option Word} (ha : s.port.access = some a) (hw : a.requester = .engine)
  (hs : engineSound s) (hno : ∀ p, s.host.port ≠ .inProgress p)

section Read

variable {w : Word} (hk : a.request.kind = .read) (hword : w = ad.getD (Memory.word s.array a.request.addr))

include ha hw hk hword

theorem accessComplete_recoveryRead {r : Recovery} (he : s.engine.state = .recovering r) :
    accessComplete ad s = recoveryDone r w { s with port := s.port.finish } :=
  hword ▸ (accessComplete_engineRead ad ha hw hk).trans (engineAccessDone_recovering _ he)

include hno

/-- A word 0 that is not VALID ends recovery (R120). -/
theorem recoveryEnds_of_notValid (he : s.engine.state = .recovering .marker) (hv : w ≠ Config.validMarker) :
    exec (.arrayAccessComplete ad) s = .next { s with
      engine := { s.engine with state := .idle }
      port := Port.arbitrate { s.port with access := none } } :=
  exec_arrayAccessComplete_of_no_access hno ((accessComplete_recoveryRead ha hw hk hword he).trans
    ((if_neg hv).trans (endRecovery_of_no_access .idle hno)))

theorem recoveryFailsCheck_header {h : List Word} (he : s.engine.state = .recovering (.header h)) (hlen : h.length = 7)
    (hv : headerValid s.straps (h ++ [w]) = false) : recoveryFailsCheck ad s :=
  recoveryFailsCheck_of_failRecovery hno ((accessComplete_recoveryRead ha hw hk hword he).trans
    (headerRead_invalid (by rw [List.length_append, hlen, List.length_singleton]) hv))

theorem recoveryFailsCheck_records {h ws : List Word} (he : s.engine.state = .recovering (.records h ws))
    (hlen : ws.length + 1 = 3 * (wordAt h 3).toNat) (hv : recordsValid s.straps h (ws ++ [w]) = false) :
    recoveryFailsCheck ad s :=
  recoveryFailsCheck_of_failRecovery hno ((accessComplete_recoveryRead ha hw hk hword he).trans
    (recordRead_invalid (by rw [List.length_append, List.length_singleton, hlen]) hv))

include hs

/-- The engine goes on to the place where the word leads. -/
theorem recoveryGoesOn_read {r r' : Recovery} (he : s.engine.state = .recovering r)
    (h : recoveryDone r w { s with port := s.port.finish } = goOn (.recovering r') { s with port := s.port.finish }) :
    recoveryGoesOn ad s.array r' s :=
  recoveryGoesOn_of_goOn ha hw hs hno ((accessComplete_recoveryRead ha hw hk hword he).trans h)

theorem recoveryGoesOn_marker (he : s.engine.state = .recovering .marker) (hv : w = Config.validMarker) :
    recoveryGoesOn ad s.array (.header [w]) s :=
  recoveryGoesOn_read ha hw hs hno hk hword he ((if_pos hv).trans (headerRead_goesOn (Nat.le_of_ble_eq_true rfl)))

theorem recoveryGoesOn_header {h : List Word} (he : s.engine.state = .recovering (.header h)) (hlt : h.length < 7) :
    recoveryGoesOn ad s.array (.header (h ++ [w])) s :=
  recoveryGoesOn_read ha hw hs hno hk hword he
    (headerRead_goesOn (by rw [List.length_append, List.length_singleton]; omega))

theorem recoveryGoesOn_headerEnd {h : List Word} (he : s.engine.state = .recovering (.header h)) (hlen : h.length = 7)
    (hv : headerValid s.straps (h ++ [w]) = true) : recoveryGoesOn ad s.array (.records (h ++ [w]) []) s :=
  recoveryGoesOn_read ha hw hs hno hk hword he
    (headerRead_valid (by rw [List.length_append, hlen, List.length_singleton]) hv)

theorem recoveryGoesOn_records {h ws : List Word} (he : s.engine.state = .recovering (.records h ws))
    (hlt : ws.length + 1 < 3 * (wordAt h 3).toNat) : recoveryGoesOn ad s.array (.records h (ws ++ [w])) s :=
  recoveryGoesOn_read ha hw hs hno hk hword he
    (recordRead_goesOn (by rw [List.length_append, List.length_singleton]; exact hlt))

/-- After the last record word the first record with a lane goes home, or the journal is emptied (R123, R124). -/
theorem recoveryGoesOn_recordsEnd {h ws : List Word} {r' : Recovery} (he : s.engine.state = .recovering (.records h ws))
    (hlen : ws.length + 1 = 3 * (wordAt h 3).toNat) (hv : recordsValid s.straps h (ws ++ [w]) = true)
    (hreplay : ∀ t, replayOn h (recordsOfWords (ws ++ [w])) t = goOn (.recovering r') t) :
    recoveryGoesOn ad s.array r' s :=
  recoveryGoesOn_read ha hw hs hno hk hword he
    ((recordRead_valid (s := { s with port := s.port.finish })
      (by rw [List.length_append, List.length_singleton, hlen]) hv).trans (hreplay _))

end Read

/-! ### What each write leads to -/

section Write

variable {m : List Host.Cell} (hk : a.request.kind = .write)
  (hm : m = Memory.store s.array a.request.addr a.request.lanes a.request.data)

include ha hw hk hm

theorem accessComplete_write :
    ∃ w, accessComplete ad s = engineAccessDone w { s with array := m, port := s.port.finish } :=
  hm ▸ accessComplete_engineWrite ad ha hw hk

theorem accessComplete_recoveryWrite {r : Recovery} (he : s.engine.state = .recovering r) :
    ∃ w, accessComplete ad s = recoveryDone r w { s with array := m, port := s.port.finish } := by
  obtain ⟨w, hdone⟩ := accessComplete_write (ad := ad) ha hw hk hm
  exact ⟨w, hdone.trans (engineAccessDone_recovering (s := { s with array := m, port := s.port.finish }) w he)⟩

include hno

/-- After a home write the next record with a lane goes home, or the journal is emptied (R123, R124). -/
theorem recoveryGoesOn_replay (hs : engineSound s) {h : List Word} {r : JournalRecord} {rest : List JournalRecord}
    {r' : Recovery} (he : s.engine.state = .recovering (.replay h (r :: rest)))
    (hreplay : ∀ t, replayOn h rest t = goOn (.recovering r') t) : recoveryGoesOn ad m r' s := by
  obtain ⟨w, hdone⟩ := accessComplete_recoveryWrite (ad := ad) ha hw hk hm he
  exact recoveryGoesOn_of_goOn ha hw hs hno (hdone.trans (hreplay _))

/-- The write of EMPTY loads the recovery registers and ends recovery (R124). -/
theorem recoveryEnds_of_finish {h : List Word} (he : s.engine.state = .recovering (.finish h)) :
    exec (.arrayAccessComplete ad) s = .next { s with
      engine := { s.engine with
        state := .idle, rseq := wordAt h 1, rdom := wordAt h 2, rtag := wordAt h 4, rcnt := wordAt h 3,
        seq := wordAt h 1 + 1#16 }
      port := Port.arbitrate { s.port with access := none }
      array := m
      mgmt := s.mgmt.noted [.recovered] [] } := by
  obtain ⟨w, hdone⟩ := accessComplete_recoveryWrite (ad := ad) ha hw hk hm he
  exact exec_arrayAccessComplete_of_no_access hno
    (hdone.trans (replayDone_of_no_access (s := { s with array := m, port := s.port.finish }) h hno))

/-- The end of a discard write takes the engine to IDLE (R129). -/
theorem discardEnds {c : BlockCause} (he : s.engine.state = .blocked c true) :
    exec (.arrayAccessComplete ad) s = .next { s with
      engine := { s.engine with state := .idle }
      port := Port.arbitrate { s.port with access := none }
      array := m } := by
  obtain ⟨w, hdone⟩ := accessComplete_write (ad := ad) ha hw hk hm
  exact exec_arrayAccessComplete_of_no_access hno
    (hdone.trans (engineAccessDone_discarding (s := { s with array := m, port := s.port.finish }) w he))

end Write

end Access

/-- Settles O45: each word read and each write done has one place where it leads; the engine goes on from there with the
access that the place asks for, or recovery ends and the access held through it is released. -/
theorem recoveryCourse : Obligations.RecoveryCourse := by
  refine ⟨fun s ad a w ha hw hk hs hword hno => ?_, fun st h ws r rest => ⟨rfl, rfl, rfl, rfl, rfl⟩,
    fun s ad a ha hw hk hs hno m hm => ?_, fun c s u p bus hc hrec hp hk hagain hbus hu => ?_⟩
  · refine ⟨recoveryEnds_of_notValid ha hw hno hk hword, recoveryGoesOn_marker ha hw hs hno hk hword,
      fun h he => ⟨?_, ?_, ?_⟩,
      fun h ws he => ⟨?_, ?_, fun hlen hv passed hp => ⟨fun hall => ?_, fun r rest hr hall => ?_⟩⟩⟩
    · exact recoveryGoesOn_header ha hw hs hno hk hword he
    · exact recoveryGoesOn_headerEnd ha hw hs hno hk hword he
    · exact recoveryFailsCheck_header ha hw hno hk hword he
    · exact recoveryGoesOn_records ha hw hs hno hk hword he
    · exact recoveryFailsCheck_records ha hw hno hk hword he
    · exact recoveryGoesOn_recordsEnd ha hw hs hno hk hword he hlen hv fun _ => hall ▸ replayOn_passed hp
    · exact recoveryGoesOn_recordsEnd ha hw hs hno hk hword he hlen hv fun _ => hall ▸ replayOn_next hp hr
  · refine ⟨fun h r rest passed he hp next hnext => ?_, fun h => recoveryEnds_of_finish ha hw hno hk hm,
      fun c => discardEnds ha hw hno hk hm⟩
    refine recoveryGoesOn_replay ha hw hno hk hm hs he fun t => ?_
    obtain ⟨rfl, rfl⟩ | ⟨e, es, hlane, rfl, rfl⟩ := hnext
    · exact replayOn_passed hp
    · exact replayOn_next hp hlane
  · have hnext := exec_under_held hc hrec hp hk hagain hbus hu
    refine ⟨fun hgo => ?_, fun hend => ⟨_, rfl, ?_⟩⟩
    · rw [hnext, if_pos hgo]
      rfl
    · rw [hnext, if_neg (Bool.eq_false_iff.mp hend)]

end Sys2Proof.Machine
end

section
/-! PROOFS. The journal's words: their fields, the check function, and that recovery reads back and accepts what an apply
writes. -/

namespace Sys2Proof.Machine

/-! ### The words of a record -/

/-- Word 1 of a record: tag flag, lane mask, address bits 19..16 (R116). -/
def JournalRecord.word1 (r : JournalRecord) : Word :=
  BitVec.ofBool r.tag ++ 0#9 ++ BitVec.ofBool r.lanes.lane1 ++ BitVec.ofBool r.lanes.lane0 ++ r.addr.extractLsb' 16 4

theorem JournalRecord.words_eq (r : JournalRecord) : r.words = [r.addr.setWidth 16, r.word1, r.data] := rfl

theorem JournalRecord.word1_lane0 (r : JournalRecord) : r.word1.getLsbD 4 = r.lanes.lane0 := by
  simp only [word1, BitVec.getLsbD_append]
  simp

theorem JournalRecord.word1_lane1 (r : JournalRecord) : r.word1.getLsbD 5 = r.lanes.lane1 := by
  simp only [word1, BitVec.getLsbD_append]
  simp

theorem JournalRecord.word1_tag (r : JournalRecord) : r.word1.getLsbD 15 = r.tag := by
  simp only [word1, BitVec.getLsbD_append]
  simp

theorem JournalRecord.word1_address (r : JournalRecord) : r.word1.setWidth 4 = r.addr.extractLsb' 16 4 := by
  refine BitVec.eq_of_getLsbD_eq fun i hi => ?_
  rw [BitVec.getLsbD_setWidth, word1, BitVec.getLsbD_append]
  simp [hi]

theorem JournalRecord.word1_reserved (r : JournalRecord) : r.word1.extractLsb' 6 9 = 0#9 := by
  simp only [word1, BitVec.extractLsb'_append_eq_ite]
  simp

/-- An address is its bits 19..16 before its bits 15..0. -/
theorem addr_of_halves (a : Addr) : a.extractLsb' 16 4 ++ a.setWidth 16 = a := by
  refine BitVec.eq_of_getLsbD_eq fun i hi => ?_
  rw [BitVec.getLsbD_append, BitVec.getLsbD_setWidth, BitVec.getLsbD_extractLsb']
  split
  · next h => simp [h]
  · next h =>
    rw [Nat.add_sub_cancel' (Nat.le_of_not_lt h), decide_eq_true (by omega), Bool.true_and]

/-- A record reads back from its words (R116). -/
theorem JournalRecord.ofWords_words (r : JournalRecord) : ofWords (r.addr.setWidth 16) r.word1 r.data = r := by
  rw [ofWords, word1_address, addr_of_halves, word1_lane0, word1_lane1, word1_tag]

theorem recordsOfWords_flatMap_words (rs : List JournalRecord) :
    recordsOfWords (rs.flatMap JournalRecord.words) = rs := by
  induction rs with
  | nil => rfl
  | cons r rs ih =>
    rw [List.flatMap_cons, JournalRecord.words_eq]
    exact congrArg₂ List.cons r.ofWords_words ih

theorem length_flatMap_words (rs : List JournalRecord) : (rs.flatMap JournalRecord.words).length = 3 * rs.length := by
  induction rs with
  | nil => rfl
  | cons r rs ih => rw [List.flatMap_cons, List.length_append, r.length_words, ih, List.length_cons]; omega

/-! ### The header of a group -/

theorem GroupRecord.wordAt_header_domain (g : GroupRecord) : (wordAt g.header 2).toNat = g.domain.toNat := by
  show (BitVec.ofNat 16 g.domain.toNat).toNat = _
  cases g.domain <;> rfl

theorem GroupRecord.wordAt_header_count {g : GroupRecord} (h : g.entries.length < 512) :
    (wordAt g.header 3).toNat = g.entries.length + 1 := by
  show (BitVec.ofNat 16 (g.entries.length + 1)).toNat = _
  rw [BitVec.toNat_ofNat]
  omega

/-- Word 7 is the check of words 0 to 6 (R118). -/
theorem GroupRecord.wordAt_header_check (g : GroupRecord) : wordAt g.header 7 = crc (g.header.take 7) := by
  have hbody : g.header.take 7 = g.headerBody := rfl
  rw [hbody, GroupRecord.header]
  generalize crc g.headerBody = c
  rfl

/-! ### The check function -/

/-- The bits of a word, bit 15 first (R117). -/
theorem wordBits_eq (w : Word) : wordBits w = (List.range 16).map fun i => w.getLsbD (15 - i) := rfl

theorem crc_append (ws : List Word) (w : Word) : crc (ws ++ [w]) = (wordBits w).foldl crcBit (crc ws) :=
  List.foldl_append

theorem bit15_eq_decide (w : Word) : w.getLsbD 15 = decide (32768 ≤ w.toNat) := BitVec.msb_eq_decide w

/-- One bit of the check function as arithmetic (R117). -/
theorem toNat_crcBit (rem : Word) (b : Bool) : (crcBit rem b).toNat =
    if b = decide (32768 ≤ rem.toNat) then (2 * rem.toNat) % 65536 else ((2 * rem.toNat) % 65536) ^^^ 0x1021 := by
  have hshift : (rem <<< 1).toNat = (2 * rem.toNat) % 65536 := by
    rw [BitVec.toNat_shiftLeft, Nat.shiftLeft_eq, Nat.pow_one, Nat.mul_comm]
  rw [crcBit, bit15_eq_decide]
  by_cases hb : b = decide (32768 ≤ rem.toNat)
  · rw [if_neg (by simp [hb]), if_pos hb, hshift]
  · rw [if_pos (bne_iff_ne.mpr hb), if_neg hb, BitVec.toNat_xor, hshift]
    rfl

/-- Settles O40: each field of a record's words is read off the word's parts; the check function is a fold of its
bit step. -/
theorem journalLayoutsAndCheckFunction : Obligations.JournalLayoutsAndCheckFunction := by
  refine ⟨⟨fun r =>
      ⟨_, _, _, r.words_eq, rfl, ?_, r.word1_lane0, r.word1_lane1, r.word1_reserved, r.word1_tag, rfl⟩,
    fun g hg => ?_⟩, toNat_crcBit, rfl, fun ws w => ?_⟩
  · rw [← BitVec.setWidth_eq_extractLsb' (by decide), r.word1_address]
  · exact ⟨rfl, rfl, rfl, g.wordAt_header_domain, GroupRecord.wordAt_header_count hg, rfl, rfl, rfl,
      g.wordAt_header_check⟩
  · rw [crc_append, wordBits_eq, List.foldl_map]

/-! ### What recovery accepts -/

/-- The tag record alone carries the tag flag (R118, R122). -/
theorem tagFlagsValid_records (es : List Entry) {r : JournalRecord} (hr : r.tag = true) :
    tagFlagsValid (es.map entryRecord ++ [r]) = true := by
  induction es with
  | nil => exact hr
  | cons e es ih =>
    obtain ⟨x, xs, hx⟩ : ∃ x xs, es.map entryRecord ++ [r] = x :: xs := List.exists_cons_of_ne_nil (by simp)
    rw [List.map_cons, List.cons_append]
    rw [hx] at ih ⊢
    exact ih

theorem GroupRecord.headerValid_header {st : Straps} {g : GroupRecord} (h : g.entries.length + 1 ≤ journalRecords st) :
    headerValid st g.header = true := by
  have hcount := GroupRecord.wordAt_header_count (g := g) (by have := journalRecords_le st; omega)
  refine (headerValid_iff st g.header).mpr ⟨g.wordAt_header_check.symm, by omega, by omega, ?_⟩
  rw [g.wordAt_header_domain]
  cases g.domain <;> decide

/-- Settles O41: the checks in the header are those that recovery computes over the same words, and the words of each
record read back. -/
theorem recoveryAcceptsWhatTheEngineWrites : Obligations.RecoveryAcceptsWhatTheEngineWrites := by
  intro st g _ hcount hcell hentries
  have hrecords : recordsOfWords g.words = g.records := recordsOfWords_flatMap_words g.records
  refine ⟨GroupRecord.headerValid_header hcount, (recordsValid_iff st g.header g.words).mpr ⟨rfl, ?_, ?_⟩,
    hrecords, ?_⟩
  · rw [hrecords]
    exact tagFlagsValid_records g.entries rfl
  · rw [hrecords]
    intro r hr
    obtain hr | hr := List.mem_append.mp hr
    · obtain ⟨e, he, rfl⟩ := List.mem_map.mp hr
      exact hentries e he
    · rw [List.mem_singleton.mp hr]
      exact hcell
  · rw [GroupRecord.wordAt_header_count (by have := journalRecords_le st; omega), ← g.length_records]
    exact length_flatMap_words g.records

end Sys2Proof.Machine
end

section
/-! PROOFS. The state that a reset leaves, with the engine's first request. -/

namespace Sys2Proof.Machine

/-- A reset that cuts no write short leaves the array as it was (R143). -/
theorem interrupted_of_no_write {s : State} (left : Option Word)
    (h : ∀ a, s.port.access = some a → a.request.kind = .read) : interrupted left s = s.array := by
  unfold interrupted
  split
  · next a _ ha =>
    rw [h a ha]
  · rfl

section Reset

variable (st : Straps) (held : Bool) (array : List Host.Cell) (pending : List Instr)

/-- With the journal off the engine is IDLE and makes no request (R113, R132). -/
theorem requestEngine_cold_off (h : st.jsz = 0#2) :
    requestEngine (State.cold st held array pending) = State.cold st held array pending := by
  have hnone : engineRequest (State.cold st held array pending) = none := by
    simp only [engineRequest, State.cold, Engine.cold, h, if_true]
  rw [requestEngine, hnone]

/-- With the journal on the engine is RECOVERING, and the read of journal word 0 begins at once (R119). -/
theorem requestEngine_cold_on (h : st.jsz ≠ 0#2) :
    requestEngine (State.cold st held array pending) = { State.cold st held array pending with
      port := Port.begin .engine (readRequest (journalAddr st 0)) Port.cold } := by
  have hsome : engineRequest (State.cold st held array pending) = some (readRequest (journalAddr st 0)) := by
    simp only [engineRequest, State.cold, Engine.cold, h, if_false, recoveryRequest]
  rw [requestEngine, hsome]
  rfl

end Reset

/-- Settles O3: every block is at its reset value, and the engine makes its first request where the journal is on. -/
theorem resetStartsRecoveryOrIdles : Obligations.ResetStartsRecoveryOrIdles := by
  intro st left held s
  have harray := interrupted_of_no_write (s := s) left
  refine ⟨_, rfl, ?_⟩
  by_cases h : st.jsz = 0#2
  · rw [requestEngine_cold_off st held _ _ h]
    exact ⟨rfl, rfl, rfl, rfl, rfl, rfl, rfl, Four.get_ofFn _, rfl, rfl, rfl, rfl, rfl, harray,
      fun _ => ⟨if_pos h, rfl⟩, absurd h⟩
  · rw [requestEngine_cold_on st held _ _ h]
    exact ⟨rfl, rfl, rfl, rfl, rfl, rfl, rfl, Four.get_ofFn _, rfl, rfl, rfl, rfl, rfl, harray,
      fun h0 => absurd h0 h, fun _ => ⟨if_neg h, rfl⟩⟩

end Sys2Proof.Machine
end

section
/-! PROOFS. The arbiter's choice and the starvation count; the diagnostic read from its request to its end. -/

namespace Sys2Proof.Machine

/-! ### The arbiter's choice -/

section Arbiter

variable {p : Port} {h e m : Request}

/-- HP goes before AE while the starvation count is below STARVE (R135). -/
theorem Port.arbitrate_host_first (hh : p.hostReq = some h) (he : p.engineReq = some e)
    (hc : p.starveCount < p.starve.toNat) : p.arbitrate = p.grantHost h := by
  simp only [Port.arbitrate, hh, he, hc, if_true]

/-- AE goes before HP once the starvation count has reached STARVE (R135). -/
theorem Port.arbitrate_engine_first (hh : p.hostReq = some h) (he : p.engineReq = some e)
    (hc : p.starve.toNat ≤ p.starveCount) : p.arbitrate = p.grantEngine e := by
  simp only [Port.arbitrate, hh, he, Nat.not_lt.mpr hc, if_false]

theorem Port.arbitrate_host (hh : p.hostReq = some h) (he : p.engineReq = none) : p.arbitrate = p.grantHost h := by
  simp only [Port.arbitrate, hh, he]

theorem Port.arbitrate_engine (hh : p.hostReq = none) (he : p.engineReq = some e) : p.arbitrate = p.grantEngine e := by
  simp only [Port.arbitrate, hh, he]

theorem Port.arbitrate_mgmt (hh : p.hostReq = none) (he : p.engineReq = none) (hm : p.mgmtReq = some m) :
    p.arbitrate = p.grantMgmt m := by
  simp only [Port.arbitrate, hh, he, hm]

theorem Port.arbitrate_none (hh : p.hostReq = none) (he : p.engineReq = none) (hm : p.mgmtReq = none) :
    p.arbitrate = { p with starveCount := 0 } := by
  simp only [Port.arbitrate, hh, he, hm]

/-- HP granted with AE waiting raises the starvation count, up to 15 (R136). -/
theorem Port.grantHost_engineWaits (he : p.engineReq = some e) :
    p.grantHost h = { p with
      access := some ⟨.host, h, 0, false⟩, hostReq := none, starveCount := min 15 (p.starveCount + 1) } := by
  simp only [Port.grantHost, Port.begin, he, Option.isSome_some, if_true, Config.starveCountMax]

/-- HP granted with AE not waiting makes the starvation count 0 (R136). -/
theorem Port.grantHost_alone (he : p.engineReq = none) :
    p.grantHost h = { p with access := some ⟨.host, h, 0, false⟩, hostReq := none, starveCount := 0 } := by
  simp only [Port.grantHost, Port.begin, he, Option.isSome_none, Bool.false_eq_true, if_false]

end Arbiter

section Starve

variable {s : State}

theorem starveWrite_range {data : Word} (h : data.toNat = 0 ∨ 15 < data.toNat) : starveWrite data s = (.range, s) :=
  if_pos (h.imp_left (eq_zero_iff_toNat data).mpr)

theorem starveWrite_ok {data : Word} (hpos : 1 ≤ data.toNat) (hle : data.toNat ≤ 15) :
    starveWrite data s = (.ok, { s with port := { s.port with starve := data } }) :=
  if_neg (by rw [eq_zero_iff_toNat]; omega)

end Starve

/-- Settles O36: the grant in each row of the table of R135, with the count that it leaves, and the range of STARVE. -/
theorem arbitrationAndStarvation : Obligations.ArbitrationAndStarvation := by
  constructor
  · intro p h e m _
    refine ⟨fun hh he hc => ?_, Port.arbitrate_engine_first, fun hh he => ?_,
      Port.arbitrate_engine, Port.arbitrate_mgmt, Port.arbitrate_none⟩
    · rw [Port.arbitrate_host_first hh he hc, Port.grantHost_engineWaits he]
    · rw [Port.arbitrate_host hh he, Port.grantHost_alone he]
  · intro data s hs
    exact ⟨fun hr => congrArg _ (frameWith_refused hs (starveWrite_range hr)),
      fun hpos hle => congrArg _ (frameWith_accepted hs (starveWrite_ok hpos hle) rfl)⟩

section Diagnostic

variable {s : State}

/-! ### The diagnostic read -/

theorem jaddrWrite_range {data : Word} (h : arrayWords s.straps ≤ (formedDiagAddr s data).toNat) :
    jaddrWrite data s = (.range, s) := if_pos h

theorem jaddrWrite_busy {data : Word} (h : (formedDiagAddr s data).toNat < arrayWords s.straps)
    (hp : s.diag.status = .pending) : jaddrWrite data s = (.busy, s) := by
  rw [jaddrWrite, if_neg (Nat.not_le.mpr h), if_pos hp]

theorem jaddrWrite_ok {data : Word} (h : (formedDiagAddr s data).toNat < arrayWords s.straps)
    (hp : s.diag.status ≠ .pending) :
    jaddrWrite data s = (.ok, { s with
      diag := { s.diag with addr := formedDiagAddr s data, status := .pending }
      port := s.port.post .mgmt (readRequest (formedDiagAddr s data)) }) := by
  rw [jaddrWrite, if_neg (Nat.not_le.mpr h), if_neg hp]
  rfl

/-- At a busy port the request of the diagnostic read waits (R134). -/
theorem Port.post_mgmt_busy {p : Port} {b : ArrayAccess} (r : Request) (hbusy : p.access = some b) :
    p.post .mgmt r = { p with mgmtReq := some r } := by
  simp only [Port.post, Port.wait, hbusy, Option.isSome_some, if_true]

/-- At an idle port where nothing waits the diagnostic read begins at once (R135). -/
theorem Port.post_mgmt_idle {p : Port} (r : Request) (hidle : p.access = none) (hh : p.hostReq = none)
    (he : p.engineReq = none) :
    p.post .mgmt r = { p with access := some ⟨.mgmt, r, 0, false⟩, mgmtReq := none, starveCount := 0 } := by
  have hgrant : p.post .mgmt r = (p.wait .mgmt r).grantMgmt r := by
    simp [Port.post, Port.wait, Port.arbitrate, hidle, hh, he]
  rw [hgrant]
  rfl

/-- At an idle port neither ARDY nor a timeout has an effect (R133). -/
theorem accessComplete_idle (ad : Option Word) (h : s.port.access = none) : accessComplete ad s = s := by
  simp only [accessComplete, h]

theorem accessTimeout_idle (left : Option Word) (h : s.port.access = none) : accessTimeout left s = s := by
  simp only [accessTimeout, h]

theorem accessTimeout_notDue {a : ArrayAccess} (left : Option Word) (ha : s.port.access = some a)
    (hd : a.due = false) : accessTimeout left s = s := by
  simp only [accessTimeout, ha, hd, Bool.false_eq_true, if_false]

theorem interrupted_read {a : ArrayAccess} (left : Option Word) (ha : s.port.access = some a)
    (hk : a.request.kind = .read) : interrupted left s = s.array :=
  interrupted_of_no_write left fun b hb => by
    rw [ha] at hb
    cases hb
    exact hk

/-- The diagnostic read ends with a word and a status (R142). -/
def diagEnded (w : Word) (st : DiagStatus) (s : State) : State := { s with
  port := Port.arbitrate { s.port with access := none }
  diag := { s.diag with data := w, status := st } }

theorem accessComplete_diagRead {a : Addr} {n : Nat} {due : Bool} (ad : Option Word)
    (h : s.port.access = some ⟨.mgmt, readRequest a, n, due⟩) :
    accessComplete ad s = diagEnded (ad.getD (Memory.word s.array a)) .done s := by
  simp only [accessComplete, h]
  rfl

theorem accessTimeout_diagRead {a : Addr} {n : Nat} (left : Option Word)
    (h : s.port.access = some ⟨.mgmt, readRequest a, n, true⟩) :
    accessTimeout left s = diagEnded 0xFFFF#16 .timeout s := by
  simp only [accessTimeout, h, if_true, interrupted_read left h rfl]
  rfl

/-- A step that leaves the Host Port as it was ends with its own effect. -/
theorem settle_eq_of_same_port {t u : State} (h : t = u) (hp : u.host.port = s.host.port) : settle s t = u :=
  h ▸ settle_of_same_port (h ▸ hp)

end Diagnostic

/-- Settles O18: the checks of a JADDR write and the request that it makes, then each end of the access. -/
theorem diagnosticRead : Obligations.DiagnosticRead := by
  constructor
  · rintro data s _ hs rfl
    refine ⟨fun hr => ?_, fun hlt hp => ?_, fun hlt hp => ⟨fun b hb => ?_, fun hidle hh he => ?_⟩⟩
    · exact congrArg _ (frameWith_refused hs (jaddrWrite_range hr))
    · exact congrArg _ (frameWith_refused hs (jaddrWrite_busy hlt hp))
    · have heff := jaddrWrite_ok hlt hp
      rw [Port.post_mgmt_busy _ hb] at heff
      exact congrArg _ (frameWith_accepted hs heff rfl)
    · have heff := jaddrWrite_ok hlt hp
      rw [Port.post_mgmt_idle _ hidle hh he] at heff
      exact congrArg _ (frameWith_accepted hs heff rfl)
  · intro s ad left a n due
    refine ⟨fun ha => ⟨congrArg _ (settle_eq_of_same_port (accessComplete_diagRead ad ha) rfl), ?_, fun hd => ?_⟩,
      fun hidle => ⟨congrArg _ (settle_eq_of_same_port (accessComplete_idle ad hidle) rfl), ?_⟩⟩
    · rintro rfl
      exact congrArg _ (settle_eq_of_same_port (accessTimeout_diagRead left ha) rfl)
    · exact congrArg _ (settle_eq_of_same_port (accessTimeout_notDue left ha hd) rfl)
    · exact congrArg _ (settle_eq_of_same_port (accessTimeout_idle left hidle) rfl)

end Sys2Proof.Machine
end

section
/-! PROOFS. A store read back lane by lane; pass-through writes, and a due timeout of the host's access. -/

namespace Sys2Proof.Machine

/-! ### A store read back, lane by lane -/

theorem laneCell_false_ne_true (a : Addr) : laneCell a false ≠ laneCell a true := by
  simp [laneCell]

theorem Memory.get_store_lane0 {m : List Host.Cell} (a : Addr) {l : Lanes} (w : Word) (hm : Memory.wf m = true)
    (hl : l.lane0 = true) : Memory.get (Memory.store m a l w) (laneCell a false) = w.lane0 := by
  have hget := Memory.get_set_same (laneCell a false) w.lane0 hm
  unfold Memory.store
  simp only [hl, if_true]
  split
  · rw [Memory.get_set_of_ne _ _ (laneCell_false_ne_true a), hget]
  · exact hget

theorem Memory.get_store_lane1 {m : List Host.Cell} (a : Addr) {l : Lanes} (w : Word) (hm : Memory.wf m = true)
    (hl : l.lane1 = true) : Memory.get (Memory.store m a l w) (laneCell a true) = w.lane1 := by
  unfold Memory.store
  simp only [hl, if_true]
  refine Memory.get_set_same _ _ ?_
  split
  · exact Memory.wf_set _ _ hm
  · exact hm

/-- A store leaves every cell but those of its own enabled lanes (R99, R133). -/
theorem Memory.get_store_other (m : List Host.Cell) (a : Addr) {l : Lanes} (w : Word) {n : Nat}
    (h0 : ¬(n = laneCell a false ∧ l.lane0 = true)) (h1 : ¬(n = laneCell a true ∧ l.lane1 = true)) :
    Memory.get (Memory.store m a l w) n = Memory.get m n := by
  have hset : ∀ (on : Bool) (k : Nat) (b : Byte) (m : List Host.Cell), ¬(n = k ∧ on = true) →
      Memory.get (if on then Memory.set m k b else m) n = Memory.get m n := by
    intro on k b m h
    split
    · next hon => exact Memory.get_set_of_ne _ _ fun hn => h ⟨hn, hon⟩
    · rfl
  unfold Memory.store
  rw [hset l.lane1 _ _ _ h1, hset l.lane0 _ _ _ h0]

section PassWrites

variable {s : State}

/-! ### Pass-through writes -/

/-- A write of class PASS and of good parity waits for the array, with one request (R140). -/
theorem seeArrival_pass {bus : HostBus} (hw : writesTaken s) (hb : isWrite bus) (hp : parityGood s bus)
    (hc : classify s bus.ha = .pass) :
    seeArrival bus s = { s with
      port := s.port.post .host (writeRequest bus.ha bus.hbe bus.hd)
      host := { s.host with port := heldNow (capturedWrite s bus) .passWrite } } := by
  have hnone : classDropCause (arrived s bus) .pass = none := by
    obtain ⟨_, hblocked, hlow⟩ := hw
    have hblocked : (arrived s bus).engine.state.isBlocked = false := hblocked
    have hlow : (arrived s bus).power.low = false := hlow
    simp only [classDropCause, hblocked, hlow, Bool.false_eq_true, if_false]
  rw [seeArrival_eq_classified hw hb, hc, classifiedWrite, hnone]
  dsimp only
  rw [badParity_of_parityGood hp]
  rfl

theorem hostAccessDone_passWrite {p : Progress} (w : Word) (hp : s.host.port = .inProgress p)
    (hk : p.hold = .passWrite) : hostAccessDone w s = setHost (quietEnd p.ended) s := by
  rw [← completeQuiet_eq hp]
  simp only [hostAccessDone, heldFor, hp, hk]

/-- ARDY ends a pass-through write: it is stored, and the Host Port's access completes (R133, R140). -/
theorem accessComplete_passWrite {p : Progress} {r : Request} {n : Nat} {due : Bool} (ad : Option Word)
    (hp : s.host.port = .inProgress p) (hk : p.hold = .passWrite) (hr : r.kind = .write)
    (ha : s.port.access = some ⟨.host, r, n, due⟩) :
    accessComplete ad s = { s with
      array := Memory.store s.array r.addr r.lanes r.data
      port := s.port.finish
      host := { s.host with port := quietEnd p.ended } } := by
  simp only [accessComplete, ha, hr]
  exact hostAccessDone_passWrite (s := { s with array := _, port := s.port.finish }) _ hp hk

end PassWrites

/-- Settles O31: the request that the arrival makes, and the store and the completion that ARDY brings. -/
theorem passThroughWrites : Obligations.PassThroughWrites := by
  constructor
  · intro s bus hw hb hp hc
    exact ⟨_, congrArg Host.Outcome.next (seeArrival_pass hw hb hp hc), rfl, Port.post_host_idle _,
      fun _ => Port.post_host_busy _⟩
  · intro s ad p r n due hm hn hp hk hr ha
    refine ⟨_, congrArg Host.Outcome.next
      ((takeArdy_of_noneAgain ad hn).trans (accessComplete_passWrite ad hp hk hr ha)), rfl, fun hl => ?_, fun hl => ?_⟩
    · rw [Memory.word, Word.lane0_ofLanes]
      exact Memory.get_store_lane0 _ _ hm hl
    · rw [Memory.word, Word.lane1_ofLanes]
      exact Memory.get_store_lane1 _ _ hm hl

section HostTimeout

variable {s : State} {p : Progress}

/-! ### A due timeout of the host's access -/

/-- The host's access has timed out, before its host access ends: ARRSRC is HOST and ARRAY is set (R138, R139). -/
def hostLost (left : Option Word) (s : State) : State := { s with
  array := interrupted left s
  port := Port.arbitrate { s.port with access := none, arrsrc := .host }
  mgmt := s.mgmt.noted [.array] [] }

theorem hostLost_eq (left : Option Word) (s : State) :
    setFlag .array { s with array := interrupted left s, port := { s.port.finish with arrsrc := .host } }
      = hostLost left s := by
  rw [hostLost, Port.arbitrate_arrsrc .host { s.port with access := none }]
  rfl

theorem accessTimeout_host {a : ArrayAccess} (left : Option Word) (ha : s.port.access = some a)
    (hw : a.requester = .host) (hd : a.due = true) :
    accessTimeout left s = hostTimedOut { s with array := interrupted left s, port := s.port.finish } := by
  simp only [accessTimeout, ha, hw, hd, if_true]

/-- A read that timed out completes with 0xFFFF, and no lane of it comes from the store (R83, R138). -/
theorem accessTimeout_hostRead {a : ArrayAccess} (left : Option Word) (ha : s.port.access = some a)
    (hw : a.requester = .host) (hd : a.due = true) (hp : s.host.port = .inProgress p)
    (hk : p.hold = .plainRead ∨ ∃ d, p.hold = .mergeRead d) :
    accessTimeout left s = setHost (readEnd p.ended 0xFFFF#16) (hostLost left s) := by
  rw [accessTimeout_host left ha hw hd, ← completeRead_eq (s := hostLost left s) _ hp, ← hostLost_eq, hostTimedOut]
  obtain hk | ⟨d, hk⟩ := hk <;> simp only [heldFor, setFlag_host, hp, hk]

/-- A pass-through write that timed out completes like any other (R138). -/
theorem accessTimeout_passWrite {a : ArrayAccess} (left : Option Word) (ha : s.port.access = some a)
    (hw : a.requester = .host) (hd : a.due = true) (hp : s.host.port = .inProgress p) (hk : p.hold = .passWrite) :
    accessTimeout left s = setHost (quietEnd p.ended) (hostLost left s) := by
  rw [accessTimeout_host left ha hw hd, ← completeQuiet_eq (s := hostLost left s) hp, ← hostLost_eq, hostTimedOut]
  simp only [heldFor, setFlag_host, hp, hk]

end HostTimeout

/-- Settles O38: the reason for which the host access is held says how it ends. -/
theorem hostAccessTimesOut : Obligations.HostAccessTimesOut := by
  intro s left p r n hp ha hn
  refine ⟨fun hk hr => ?_, fun hk _ => ?_⟩
  · refine exec_arrayTimeout left ((accessTimeout_hostRead left ha rfl rfl hp hk).trans ?_) hn
    rw [hostLost, interrupted_read left ha hr]
    rfl
  · refine ⟨_, exec_arrayTimeout left (accessTimeout_passWrite left ha rfl rfl hp hk) hn, rfl, ?_⟩
    rintro rfl
    exact interrupted_none s

end Sys2Proof.Machine
end

section
/-! PROOFS. The access in progress whose timeout a tick has made due: no event but the end of that access takes it
away, and no event but a tick makes one due, since every access begins with its timeout not due (R137). So of the
expiries that one tick brings, at most one ends an array access, and it ends the access that the tick found. -/

namespace Sys2Proof.Machine

/-- The access in progress, if its timeout is due (R137). -/
def Port.dueAccess (p : Port) : Option ArrayAccess := p.access.filter ArrayAccess.due

theorem Port.dueAccess_eq_some_iff {p : Port} {a : ArrayAccess} :
    p.dueAccess = some a ↔ p.access = some a ∧ a.due = true := Option.filter_eq_some_iff

/-- An access that begins is not due. -/
theorem Port.dueAccess_arbitrate {p : Port} (h : p.access = none) : p.arbitrate.dueAccess = none := by
  unfold Port.arbitrate
  split
  · split <;> rfl
  · rfl
  · rfl
  · rfl
  · rw [Port.dueAccess, h]
    rfl

theorem Port.dueAccess_finish (p : Port) : p.finish.dueAccess = none := Port.dueAccess_arbitrate rfl

/-- A request waits behind a due access, and at an idle port it begins with its timeout not due. -/
theorem Port.dueAccess_post (who : Requester) (r : Request) (p : Port) : (p.post who r).dueAccess = p.dueAccess := by
  have hwait : (p.wait who r).access = p.access := by cases who <;> rfl
  unfold Port.post
  split
  · rw [Port.dueAccess, hwait, Port.dueAccess]
  · next h =>
    have hidle : p.access = none := Option.not_isSome_iff_eq_none.mp h
    rw [Port.dueAccess_arbitrate (hwait.trans hidle), Port.dueAccess, hidle]
    rfl

section DueAccess

variable {s t : State}

theorem dueAccess_of_duty (h : t.duty = s.duty) : t.port.dueAccess = s.port.dueAccess :=
  congrArg (Option.filter ArrayAccess.due) (congrArg Duty.access h)

variable (s)

/-! ### The engine and the groups -/

theorem dueAccess_requestEngine : (requestEngine s).port.dueAccess = s.port.dueAccess := by
  unfold requestEngine
  split
  · exact Port.dueAccess_post _ _ _
  · rfl

theorem dueAccess_beginHead : (beginHead s).port.dueAccess = s.port.dueAccess := dueAccess_requestEngine _

theorem dueAccess_tryBegin : (tryBegin s).port.dueAccess = s.port.dueAccess := by
  unfold tryBegin
  split
  · exact dueAccess_beginHead s
  · rfl

theorem dueAccess_commitQueued (d : Dom) (tag : Word) : (commitQueued d tag s).port.dueAccess = s.port.dueAccess := by
  unfold commitQueued
  split
  · exact dueAccess_of_duty (s := queueGroup d tag true s) (duty_setHold _ _)
  · exact dueAccess_of_duty (s := queueGroup d tag false s) (duty_completeQuiet _)

theorem dueAccess_examineCommit (x : Bool) (d : Dom) (tag : Word) :
    (examineCommit x d tag s).port.dueAccess = s.port.dueAccess := by
  have hdrop : ∀ t, t.duty = s.duty → (commitToBroken d t).port.dueAccess = s.port.dueAccess := fun t ht =>
    dueAccess_of_duty ((duty_commitToBroken t d).trans ht)
  unfold examineCommit
  split
  · exact (dueAccess_tryBegin _).trans (dueAccess_commitQueued s d tag)
  · split
    · exact hdrop _ (duty_breakDomain s d .hold)
    · split
      · rfl
      · exact hdrop _ (duty_breakDomain s d .queueFull)

theorem dueAccess_examine (x : Bool) : (examine x s).port.dueAccess = s.port.dueAccess := by
  unfold examine
  split
  · split
    · exact dueAccess_of_duty (duty_examineWrite s _ _ _ _ _)
    · exact dueAccess_examineCommit s _ _ _
    · rfl
  · rfl

theorem dueAccess_beginAndExamine : (beginAndExamine s).port.dueAccess = s.port.dueAccess := by
  unfold beginAndExamine
  split
  · exact (dueAccess_examine _ false).trans (dueAccess_beginHead s)
  · rfl

/-! ### Accesses of the host -/

theorem dueAccess_holdForRead (k : Hold) (a : Addr) : (holdForRead k a s).port.dueAccess = s.port.dueAccess :=
  (Port.dueAccess_post _ _ _).trans (dueAccess_of_duty (duty_setHold s k))

theorem dueAccess_classifiedRead (c : Class) (a : Addr) : (classifiedRead c a s).port.dueAccess = s.port.dueAccess := by
  have hread : ∀ k, (holdForRead k a s).port.dueAccess = s.port.dueAccess := fun k => dueAccess_holdForRead s k a
  unfold classifiedRead
  split
  · exact dueAccess_of_duty (duty_completeRead s _)
  · exact dueAccess_of_duty (duty_completeRead s _)
  · split
    · unfold stagedRead
      split
      · exact dueAccess_of_duty (duty_completeRead _ _)
      · exact hread _
    · exact hread _
  all_goals exact hread _

theorem dueAccess_stagedWrite (d : Dom) (a : Addr) (l : Lanes) (w : Word) (bad : Bool) :
    (stagedWrite d a l w bad s).port.dueAccess = s.port.dueAccess := by
  unfold stagedWrite
  split
  · exact dueAccess_of_duty ((duty_dropParity _).trans (duty_breakDomain s d .parity))
  · split
    · exact dueAccess_of_duty (duty_dropWrite s .broken)
    · split
      · exact dueAccess_of_duty (duty_placeNow s d a l w)
      · exact (dueAccess_examine _ false).trans (dueAccess_of_duty (duty_setHold s _))

theorem dueAccess_commitGroup (d : Dom) (tag : Word) : (commitGroup d tag s).port.dueAccess = s.port.dueAccess := by
  unfold commitGroup
  split
  · exact dueAccess_of_duty (duty_commitToBroken s d)
  · split
    · exact (dueAccess_tryBegin _).trans (dueAccess_commitQueued s d tag)
    · exact (dueAccess_examine _ false).trans (dueAccess_of_duty (duty_setHold _ _))

theorem dueAccess_commitCellWrite (d : Dom) (l : Lanes) (w : Word) (bad : Bool) :
    (commitCellWrite d l w bad s).port.dueAccess = s.port.dueAccess := by
  unfold commitCellWrite
  split
  · refine dueAccess_of_duty ((duty_dropWrite _ .format).trans ?_)
    split
    · exact duty_breakDomain s d .format
    · rfl
  · split
    · exact dueAccess_of_duty ((duty_dropParity _).trans (duty_breakDomain s d .parity))
    · split
      · exact dueAccess_of_duty (duty_abortGroup s d)
      · exact dueAccess_commitGroup s d w

theorem dueAccess_passWrite (a : Addr) (l : Lanes) (w : Word) (bad : Bool) :
    (passWrite a l w bad s).port.dueAccess = s.port.dueAccess := by
  unfold passWrite
  split
  · exact dueAccess_of_duty (duty_dropParity s)
  · exact (Port.dueAccess_post _ _ _).trans (dueAccess_of_duty (duty_setHold s _))

theorem dueAccess_classifiedWrite (c : Class) (a : Addr) (l : Lanes) (w : Word) (hdp : Option (BitVec 2)) :
    (classifiedWrite c a l w hdp s).port.dueAccess = s.port.dueAccess := by
  unfold classifiedWrite
  split
  · exact dueAccess_of_duty (duty_dropWrite s _)
  · split
    · exact dueAccess_commitCellWrite s _ _ _ _
    · exact dueAccess_stagedWrite s _ _ _ _ _
    · exact dueAccess_passWrite s _ _ _ _
    all_goals rfl

theorem dueAccess_presentAccess (a : Access) : (presentAccess a s).port.dueAccess = s.port.dueAccess := by
  unfold presentAccess
  split
  · exact dueAccess_of_duty (duty_completeQuiet s)
  · exact dueAccess_classifiedRead s _ _
  · split
    · exact dueAccess_of_duty (duty_completeQuiet s)
    · exact dueAccess_classifiedWrite s _ _ _ _ _

theorem dueAccess_arrive (a : Access) : (arrive a s).port.dueAccess = s.port.dueAccess := by
  unfold arrive
  split
  · rfl
  · exact dueAccess_presentAccess _ a

theorem dueAccess_settle (before : State) : (settle before s).port.dueAccess = s.port.dueAccess := by
  unfold settle
  split
  · dsimp only
    split
    · exact dueAccess_arrive _ _
    · rfl
  · rfl

theorem dueAccess_releaseHeld : (releaseHeld s).port.dueAccess = s.port.dueAccess := by
  unfold releaseHeld
  split
  · split
    · exact dueAccess_presentAccess _ _
    · rfl
  · rfl

/-! ### Expiries -/

theorem dueAccess_holdExpiry : (holdExpiry s).port.dueAccess = s.port.dueAccess := by
  unfold holdExpiry
  split
  · split
    · split
      · exact dueAccess_of_duty (s := clearSyncFlags s) (duty_completeQuiet _)
      · exact dueAccess_examine s true
    · rfl
  · rfl

theorem dueAccess_ageExpiry (d : Dom) : (ageExpiry d s).port.dueAccess = s.port.dueAccess := by
  unfold ageExpiry
  split
  · dsimp only
    split
    · rfl
    · split
      · exact dueAccess_beginAndExamine _
      · rfl
    · exact (dueAccess_examine _ false).trans (dueAccess_of_duty (duty_breakDomain _ d .age))
  · rfl

/-- The engine that has lost its access makes no access due. -/
theorem dueAccess_engineTimedOut : (engineTimedOut s).port.dueAccess = s.port.dueAccess := by
  unfold engineTimedOut
  dsimp only
  split
  · exact dueAccess_releaseHeld _
  · split <;> rfl
  · rfl
  iterate 4 exact dueAccess_examine _ false
  · rfl

/-- A timeout that is taken leaves no due access: the next one has just begun. -/
theorem dueAccess_accessTimeout (left : Option Word) : (accessTimeout left s).port.dueAccess = none := by
  have hfinish := Port.dueAccess_finish s.port
  unfold accessTimeout
  split
  · next h =>
    rw [Port.dueAccess, h]
    rfl
  · next a h =>
    split
    · dsimp only
      split
      · exact (dueAccess_of_duty (duty_hostTimedOut _)).trans hfinish
      · exact (dueAccess_engineTimedOut _).trans hfinish
      · exact hfinish
    · next hd =>
      rw [Port.dueAccess, h]
      exact if_neg hd

end DueAccess

end Sys2Proof.Machine
end

section
/-! PROOFS. What changes the array's contents: the events and the frames that do not, and the lanes in which the end
of an access and a reset do. -/

namespace Sys2Proof.Machine

section Contents

variable {s t u : State}

/-! ### What leaves the array's contents -/

theorem Work.array_eq (h : Work s t) : t.array = s.array := by
  cases h with
  | note h => exact congrArg Duty.array h
  | limits h _ => exact congrArg Duty.array h
  | queue => rfl
  | port => rfl
  | begin => rw [beginHead_eq]
  | command _ turn => exact turn.frame.array

/-- A chain of changes without the end of an array access leaves the array's contents. -/
theorem Works.array_eq (h : Works s t) : t.array = s.array :=
  h.keep (P := fun t => t.array = s.array) (fun _ _ hw hs => hw.array_eq.trans hs) rfl

theorem array_settle (before s : State) : (settle before s).array = s.array := (Works.settle before (.refl s)).array_eq

/-- What a write frame does at its end leaves the array's contents: the events inside it alone change them. -/
theorem array_frameReturning {word : State → Word} {effect : State → Status × State} (he : writesRegister effect)
    (inside : List Event) (s : State) : (frameReturning word effect inside s).array = (afterInside inside s).array := by
  have heffect : ∀ t, (effect t).2.array = t.array := fun t => by
    obtain h | ⟨r, data, h⟩ := he t
    · rw [h]
    · rw [h]
      exact (Works.writeReg r data (.refl t)).array_eq
  unfold frameReturning
  dsimp only
  split
  · rfl
  · exact (array_settle _ _).trans (heffect _)

theorem array_writeReg_frame {word : State → Word} (r : Reg) (data : Word) (inside : List Event) (s : State) :
    (frameReturning word (writeReg r data) inside s).array = (afterInside inside s).array :=
  array_frameReturning (writesRegister_writeReg r data) inside s

theorem array_indexReadFrame (index : BitVec 7) (inside : List Event) (s : State) :
    (indexReadFrame index inside s).array = (afterInside inside s).array := by
  unfold indexReadFrame
  dsimp only
  split <;> rfl

/-- An expiry other than that of an array access. -/
theorem array_takeExpiry {e : Expiry} (h : ∀ left, e ≠ .array left) (s : State) : (takeExpiry s e).array = s.array := by
  refine (array_settle s _).trans ?_
  cases e with
  | hold => exact (Works.holdExpiry (.refl s)).array_eq
  | array left => exact absurd rfl (h left)
  | age d => exact (Works.ageExpiry d (.refl s)).array_eq

theorem array_tickCounts (s : State) : (tickCounts s).array = s.array := (Works.tickCounts (.refl s)).array_eq

/-- After its expiries a tick leaves the array's contents. -/
theorem array_tickStep (low : Bool) (early : List Expiry) (s : State) :
    (tickStep low early s).array = (early.foldl takeExpiry (tickCounts s)).array :=
  (array_settle _ _).trans (Works.samplePwarn low (.refl _)).array_eq

theorem array_tickStep_of_no_timeout {early : List Expiry} (low : Bool) (h : ∀ left, Expiry.array left ∉ early)
    (s : State) : (tickStep low early s).array = s.array := by
  rw [array_tickStep]
  refine List.foldlRecOn early _ (motive := fun u : State => u.array = s.array) (array_tickCounts s) fun u hu e he => ?_
  refine (array_takeExpiry (fun left hl => ?_) u).trans hu
  exact h left (hl ▸ he)

/-- A command that ends no array access changes the array's contents by the events inside its frame alone. -/
theorem array_exec {c : Instr} (h : exec c s = .next t) (ardy : ∀ ad, c ≠ .arrayAccessComplete ad)
    (timeout : ∀ left, c ≠ .arrayTimeout left) (reset : ∀ st left held, c ≠ .reset st left held)
    (tick : ∀ low left early, c = .tick low early → Expiry.array left ∉ early) :
    t.array = (afterInside c.inside s).array := by
  cases c with
  | hostAccessArrival bus => cases h; exact (Works.seeArrival bus (.refl s)).array_eq
  | hostPortReturnIdle => cases h; exact congrArg Duty.array (duty_seeReturnIdle s)
  | hostStrobesEndEarly => cases h; exact congrArg Duty.array (duty_seeStrobesEnd s)
  | holdLimitExpiry => cases h; exact array_takeExpiry (e := .hold) nofun s
  | ageExpiry d => cases h; exact array_takeExpiry (e := .age d) nofun s
  | tick low early => cases h; exact array_tickStep_of_no_timeout low (fun left => tick low left early rfl) s
  | arrayAccessComplete ad => exact absurd rfl (ardy ad)
  | arrayTimeout left => exact absurd rfl (timeout left)
  | reset st left held => exact absurd rfl (reset st left held)
  | incompleteFrame frame n =>
    cases h
    obtain ⟨_, _, _, _, _, _, _, _, _, _, _, _, harray, _⟩ := sameBlocks_cutFrame frame n.isLt s
    exact harray
  | viewRead index inside => cases h; exact array_indexReadFrame index inside s
  | registerWrite index data inside =>
    cases h; exact array_frameReturning (writesRegister_indexEffect index data) inside s
  | dctlOptionsWrite d data inside =>
    cases h
    exact array_frameReturning (fun u => .inr ⟨.dctl d, dctlData (u.domains.get d).enabled data, rfl⟩) inside s
  | holdOn inside => cases h; exact array_writeReg_frame .ecmd 1#16 inside s
  | holdOff inside => cases h; exact array_writeReg_frame .ecmd 2#16 inside s
  | retry inside => cases h; exact array_writeReg_frame .ecmd 3#16 inside s
  | abandonHead inside => cases h; exact array_writeReg_frame .ecmd 4#16 inside s
  | stageClear inside => cases h; exact array_writeReg_frame .ecmd 5#16 inside s
  | recoverRetry inside => cases h; exact array_writeReg_frame .ecmd 6#16 inside s
  | journalDiscard inside => cases h; exact array_writeReg_frame .ecmd 7#16 inside s
  | unnamedEcmdCode code inside => cases h; exact array_writeReg_frame .ecmd code inside s
  | winbaseWrite i data inside => cases h; exact array_writeReg_frame (.winbase i) data inside s
  | winlimWrite i data inside => cases h; exact array_writeReg_frame (.winlim i) data inside s
  | hsetWrite k data inside => cases h; exact array_writeReg_frame (.hset k) data inside s
  | hactWrite data inside => cases h; exact array_writeReg_frame .hact data inside s
  | defactWrite data inside => cases h; exact array_writeReg_frame .defact data inside s
  | ccloWrite d data inside => cases h; exact array_writeReg_frame (.cclo d) data inside s
  | cchiWrite d data inside => cases h; exact array_writeReg_frame (.cchi d) data inside s
  | domainEnable d data inside => cases h; exact array_writeReg_frame (.dctl d) (dctlData true data) inside s
  | domainDisable d data inside => cases h; exact array_writeReg_frame (.dctl d) (dctlData false data) inside s
  | ceilWrite d data inside => cases h; exact array_writeReg_frame (.ceil d) data inside s
  | abortvalWrite data inside => cases h; exact array_writeReg_frame .abortval data inside s
  | stalllvlWrite data inside => cases h; exact array_writeReg_frame .stalllvl data inside s
  | resumelvlWrite data inside => cases h; exact array_writeReg_frame .resumelvl data inside s
  | holdlimWrite data inside => cases h; exact array_writeReg_frame .holdlim data inside s
  | arrtoWrite data inside => cases h; exact array_writeReg_frame .arrto data inside s
  | starveWrite data inside => cases h; exact array_writeReg_frame .starve data inside s
  | tickdivWrite data inside => cases h; exact array_writeReg_frame .tickdiv data inside s
  | agerldWrite d data inside => cases h; exact array_writeReg_frame (.agerld d) data inside s
  | agechainWrite data inside => cases h; exact array_writeReg_frame .agechain data inside s
  | jaddrloWrite data inside => cases h; exact array_writeReg_frame .jaddrlo data inside s
  | jaddrWrite data inside => cases h; exact array_writeReg_frame .jaddr data inside s
  | flagsWrite data inside => cases h; exact array_writeReg_frame .flags data inside s
  | enablesWrite data inside => cases h; exact array_writeReg_frame .enables data inside s
  | counterClear k data inside => cases h; exact array_writeReg_frame (.counter k) data inside s

/-! ### The lanes of the access in progress -/

/-- A cell is an enabled lane of the word that a request writes (R133). -/
def Request.writesCell (r : Request) (n : Nat) : Prop :=
  r.kind = .write
    ∧ ((n = 2 * r.addr.toNat ∧ r.lanes.lane0 = true) ∨ (n = 2 * r.addr.toNat + 1 ∧ r.lanes.lane1 = true))

/-- The contents `m` differ from those of `s` in the enabled lanes of the write in progress alone. -/
def ownLanesOnly (s : State) (m : List Host.Cell) : Prop :=
  ∀ n, Memory.get m n = Memory.get s.array n ∨ ∃ a, s.port.access = some a ∧ a.request.writesCell n

theorem ownLanesOnly_of_eq {m : List Host.Cell} (h : m = s.array) : ownLanesOnly s m := fun _ => .inl (by rw [h])

theorem ownLanesOnly_of_storedBy {a : ArrayAccess} {m : List Host.Cell} (ha : s.port.access = some a)
    (h : storedBy a s.array m) : ownLanesOnly s m := by
  intro n
  obtain rfl | ⟨w, hk, rfl⟩ := h
  · exact .inl rfl
  · refine (em (a.request.writesCell n)).symm.imp (fun hn => ?_) fun hn => ⟨a, ha, hn⟩
    exact Memory.get_store_other _ _ _ (fun h0 => hn ⟨hk, .inl h0⟩) fun h1 => hn ⟨hk, .inr h1⟩

/-- The end of the access in progress, by ARDY or by its timeout. -/
theorem ownLanesOnly_of_endsThen (h : EndsThen s t) : ownLanesOnly s t.array := by
  obtain h | ⟨u, hu, h⟩ := h
  · exact ownLanesOnly_of_eq h.array_eq
  · rw [h.array_eq]
    cases hu with
    | other ha _ hm => exact ownLanesOnly_of_storedBy ha hm
    | engine ha _ hm turn _ =>
      rw [turn.frame.array]
      exact ownLanesOnly_of_storedBy ha hm

theorem ownLanesOnly_interrupted (left : Option Word) (s : State) : ownLanesOnly s (interrupted left s) := by
  cases ha : s.port.access with
  | none => exact ownLanesOnly_of_eq (interrupted_of_no_write left fun a h => nomatch ha.symm.trans h)
  | some a => exact ownLanesOnly_of_storedBy ha (storedBy_interrupted left ha)

/-! ### The expiries of one tick -/

/-- In the course of a tick's expiries: the contents differ in the lanes of the write that the tick found alone, and
while a timeout is due still, it is that access's and the contents are as they were. -/
structure CutShortOnce (s u : State) : Prop where
  lanes : ownLanesOnly s u.array
  due : ∀ b, u.port.dueAccess = some b → u.array = s.array ∧ ∃ a, s.port.access = some a ∧ a.request = b.request

theorem cutShortOnce_tickCounts (s : State) : CutShortOnce s (tickCounts s) := by
  refine ⟨ownLanesOnly_of_eq (array_tickCounts s), fun b hb => ⟨array_tickCounts s, ?_⟩⟩
  obtain ⟨hb, _⟩ := Port.dueAccess_eq_some_iff.mp hb
  have hport : (tickCounts s).port = (tickArray (tickHold s)).port := rfl
  have hhold : (tickHold s).port.access = s.port.access := congrArg Duty.access (duty_tickHold s)
  rw [hport, tickArray, hhold] at hb
  cases ha : s.port.access with
  | none => rw [ha] at hb; exact nomatch (hhold.trans ha).symm.trans hb
  | some a =>
    rw [ha] at hb
    cases hb
    exact ⟨a, rfl, rfl⟩

theorem accessTimeout_of_not_due (left : Option Word) (h : u.port.dueAccess = none) : accessTimeout left u = u := by
  cases ha : u.port.access with
  | none => exact accessTimeout_idle left ha
  | some a =>
    refine accessTimeout_notDue left ha (Bool.eq_false_iff.mpr fun hd => ?_)
    exact nomatch h.symm.trans (Port.dueAccess_eq_some_iff.mpr ⟨ha, hd⟩)

/-- A timeout taken ends the access that the tick found, or none. -/
theorem CutShortOnce.accessTimeout (left : Option Word) (h : CutShortOnce s u) :
    CutShortOnce s (accessTimeout left u) := by
  refine ⟨?_, fun b hb => nomatch (dueAccess_accessTimeout u left).symm.trans hb⟩
  cases hd : u.port.dueAccess with
  | none =>
    rw [accessTimeout_of_not_due left hd]
    exact h.lanes
  | some b =>
    obtain ⟨harray, a, ha, hr⟩ := h.due b hd
    obtain ⟨hb, _⟩ := Port.dueAccess_eq_some_iff.mp hd
    intro n
    refine (ownLanesOnly_of_endsThen (endsThen_accessTimeout left u) n).imp (fun hn => hn.trans (by rw [harray])) ?_
    rintro ⟨b', hb', hn⟩
    cases hb.symm.trans hb'
    exact ⟨a, ha, hr ▸ hn⟩

theorem CutShortOnce.same (h : CutShortOnce s u) (array : t.array = u.array)
    (due : t.port.dueAccess = u.port.dueAccess) : CutShortOnce s t :=
  ⟨array ▸ h.lanes, array ▸ due ▸ h.due⟩

theorem CutShortOnce.takeExpiry (e : Expiry) (h : CutShortOnce s u) : CutShortOnce s (takeExpiry u e) := by
  have hexpire : CutShortOnce s (expire u e) := by
    cases e with
    | hold => exact h.same (Works.holdExpiry (.refl u)).array_eq (dueAccess_holdExpiry u)
    | array left => exact h.accessTimeout left
    | age d => exact h.same (Works.ageExpiry d (.refl u)).array_eq (dueAccess_ageExpiry u d)
  exact hexpire.same (array_settle u _) (dueAccess_settle _ u)

theorem ownLanesOnly_tickStep (low : Bool) (early : List Expiry) (s : State) :
    ownLanesOnly s (tickStep low early s).array := by
  rw [array_tickStep]
  exact (List.foldlRecOn early _ (motive := CutShortOnce s) (cutShortOnce_tickCounts s)
    fun _ h e _ => h.takeExpiry e).lanes

/-- The commands that can change the array's contents do so in the lanes of the write in progress alone. -/
theorem ownLanesOnly_exec {c : Instr} (h : exec c s = .next t)
    (hc : (∃ ad, c = .arrayAccessComplete ad) ∨ (∃ left, c = .arrayTimeout left)
      ∨ (∃ st left held, c = .reset st left held) ∨ ∃ low early, c = .tick low early) : ownLanesOnly s t.array := by
  obtain ⟨ad, rfl⟩ | ⟨left, rfl⟩ | ⟨st, left, held, rfl⟩ | ⟨low, early, rfl⟩ := hc <;> cases h
  · exact ownLanesOnly_of_endsThen ((endsThen_accessComplete ad s).then (Works.settle s (.refl _)))
  · exact ownLanesOnly_of_endsThen (endsThen_takeExpiry (.array left) s)
  · have harray : (requestEngine (State.cold st held (interrupted left s) s.pending)).array = interrupted left s := by
      rw [requestEngine_eq]
      rfl
    rw [harray]
    exact ownLanesOnly_interrupted left s
  · exact ownLanesOnly_tickStep low early s

end Contents

/-- Settles O37: the end of an array access and a reset alone change the contents, each in the lanes of the access in
progress; of the timeouts that one tick brings, only the first can find an access due. -/
theorem arrayContents : Obligations.ArrayContents := by
  refine ⟨⟨fun _ _ _ => array_exec, fun _ _ _ => ownLanesOnly_exec⟩, ?_⟩
  intro m a l w hm
  exact ⟨Memory.wf_store a l w hm, Memory.get_store_lane0 a w hm, Memory.get_store_lane1 a w hm,
    fun _ => Memory.get_store_other m a w⟩

end Sys2Proof.Machine
end

section
/-! PROOFS. The writes of AGECHAIN: the test of each pair whose setting changes, and the frame around it. -/

namespace Sys2Proof.Machine

section Chain

variable {s : State}

/-- A domain bars a change of its pair's setting exactly in OPEN and in BROKEN (R149). -/
theorem chainFree_eq_false_iff (s : State) (d : Dom) :
    chainFree s d = false ↔ (s.domains.get d).state = .opened ∨ (s.domains.get d).state = .broken := by
  unfold chainFree
  cases (s.domains.get d).state <;> decide

theorem chainBusy_iff (now new : Bool) (lower upper : Dom) :
    chainBusy s now new lower upper = true
      ↔ new ≠ now ∧ (chainFree s lower = false ∨ chainFree s upper = false) := by
  rw [chainBusy, Bool.and_eq_true, bne_iff_ne, Bool.not_eq_true', Bool.and_eq_false_iff, ne_comm]

/-- One of the two pairs bars the write (R149). -/
def chainBarred (s : State) (data : Word) : Prop :=
  chainBusy s s.ticks.chain01 (data.getLsbD 0) .i0 .i1 = true
    ∨ chainBusy s s.ticks.chain23 (data.getLsbD 1) .i2 .i3 = true

theorem chainBarred_iff {unfree : Dom → Prop} (data : Word)
    (hu : ∀ d, unfree d ↔ ((s.domains.get d).state = .opened ∨ (s.domains.get d).state = .broken)) :
    chainBarred s data ↔ (data.getLsbD 0 ≠ s.ticks.chain01 ∧ (unfree .i0 ∨ unfree .i1))
      ∨ (data.getLsbD 1 ≠ s.ticks.chain23 ∧ (unfree .i2 ∨ unfree .i3)) := by
  simp only [chainBarred, chainBusy_iff, chainFree_eq_false_iff, hu]

theorem agechainWrite_busy {data : Word} (h : chainBarred s data) : agechainWrite data s = (.busy, s) := if_pos h

theorem agechainWrite_ok {data : Word} (h : ¬chainBarred s data) :
    agechainWrite data s
      = (.ok, { s with ticks := { s.ticks with chain01 := data.getLsbD 0, chain23 := data.getLsbD 1 } }) := if_neg h

end Chain

/-- Settles O17: the two pairs are tested each by itself, and the write sets both settings or none. -/
theorem chainWrites : Obligations.ChainWrites := by
  intro data s unfree hs hu
  rw [← chainBarred_iff data hu]
  exact ⟨fun hb => congrArg _ (frameWith_refused hs (agechainWrite_busy hb)),
    fun hb => congrArg _ (frameWith_accepted hs (agechainWrite_ok hb) rfl)⟩

end Sys2Proof.Machine
end

section
/-! PROOFS. The age expiry: what each action does, the break with the access that waits, and the group queued with its auto
tag. -/

namespace Sys2Proof.Machine

/-! ### The auto tag -/

/-- The auto tag is the next tag but one where the next is ABORTVAL (R37). -/
theorem toNat_autoTag (s : State) (d : Dom) : (autoTag s d).toNat =
    if ((s.domains.get d).lastTag.toNat + 1) % 65536 = s.abortval.toNat then ((s.domains.get d).lastTag.toNat + 2) % 65536
    else ((s.domains.get d).lastTag.toNat + 1) % 65536 := by
  have hnext : ((s.domains.get d).lastTag + 1#16).toNat = ((s.domains.get d).lastTag.toNat + 1) % 65536 :=
    BitVec.toNat_add _ _
  unfold autoTag
  simp only [← BitVec.toNat_inj, hnext]
  split
  · rw [BitVec.toNat_add, hnext]
    exact Nat.mod_add_mod _ _ _
  · exact hnext

theorem autoTag_ne_abortval (s : State) (d : Dom) : autoTag s d ≠ s.abortval := by
  unfold autoTag
  dsimp only
  split
  · next h =>
    rw [h]
    bv_omega
  · next h => exact h

section Expiry

variable {s : State} {d : Dom}

/-! ### The actions -/

/-- The expiry has been taken: AGE is set, and the domain's mark is gone (R151). -/
def ageTaken (d : Dom) (s : State) : State := setFlag .age (modDomain d (fun x => { x with ageDue := false }) s)

theorem ageExpiry_notDue (hdue : (s.domains.get d).ageDue = false) : ageExpiry d s = s := by
  simp [ageExpiry, hdue]

theorem ageExpiry_notify (hdue : (s.domains.get d).ageDue = true) (ha : (s.domains.get d).ageAction = .notify) :
    ageExpiry d s = ageTaken d s := by
  simp only [ageExpiry, hdue, ha, if_true, ageTaken]

theorem ageExpiry_commit_full (hdue : (s.domains.get d).ageDue = true) (ha : (s.domains.get d).ageAction = .commit)
    (hq : s.queue.length = 32) :
    ageExpiry d s = modDomain d (fun x => { x with autoPending := true }) (ageTaken d s) := by
  have hslot : slotFree (ageTaken d s) = false := slotFree_eq_false (s := ageTaken d s) hq
  rw [ageTaken] at hslot ⊢
  simp only [ageExpiry, hdue, ha, if_true, hslot, Bool.false_eq_true, if_false]

/-- With a free slot the open group is queued with its auto tag, and the engine may begin it (R25, R37, R153). -/
theorem ageExpiry_commit_free (hdue : (s.domains.get d).ageDue = true) (ha : (s.domains.get d).ageAction = .commit)
    (hq : s.queue.length < 32) :
    ageExpiry d s = beginAndExamine (setFlag .age (queueGroup d (autoTag s d) false s)) := by
  have hslot : slotFree (ageTaken d s) = true := (slotFree_iff (ageTaken d s)).mpr hq
  have htag : autoTag (ageTaken d s) d = autoTag s d := by
    simp [ageTaken, autoTag]
  rw [ageTaken] at hslot htag
  simp only [ageExpiry, hdue, ha, if_true, hslot, htag, queueGroup_of_ageExpiry]

theorem ageExpiry_abandon (hdue : (s.domains.get d).ageDue = true) (ha : (s.domains.get d).ageAction = .abandon) :
    ageExpiry d s = examine false (breakDomain d .age (ageTaken d s)) := by
  simp only [ageExpiry, hdue, ha, if_true, ageTaken]

/-- The expiry that is taken returns the Host Port to IDLE with no arrival, where no levels stand asserted again (R65). -/
theorem takeExpiry_age (d : Dom) (h : noneAgain s) : takeExpiry s (.age d) = ageExpiry d s :=
  settle_of_noneAgain s ((indifferent_expire (.age d)).noneAgain h)

/-! ### ABANDON -/

theorem stored_ageTaken (d : Dom) (s : State) : (ageTaken d s).stored = s.stored :=
  stored_modDomain (f := fun x => { x with ageDue := false }) s rfl

/-- Domain d has broken at its age expiry, with its entries returned and one flow test made (R31, R57, R154). -/
def ageBroken (s : State) (d : Dom) : State := { s with
  domains := s.domains.set d (brokenBy .age (s.domains.get d))
  store := { s.store with flow := flowReleased s (s.domains.get d).group.length }
  mgmt := s.mgmt.noted [.age, .broken] [.groupsBroken] }

theorem breakDomain_ageTaken (hs : storeSound s) (hd : (s.domains.get d).state = .opened) :
    breakDomain d .age (ageTaken d s) = ageBroken s d := by
  have hsound : storeSound (ageTaken d s) := by
    rw [storeSound_iff, stored_ageTaken]
    exact (storeSound_iff s).mp hs
  have hget : (ageTaken d s).domains.get d = { s.domains.get d with ageDue := false } :=
    modDomain_get_same d (fun x => { x with ageDue := false }) s
  have hfree : freeCount (ageTaken d s) = freeCount s :=
    congrArg (fun v : Stored => 512 - v.used) (stored_ageTaken d s)
  rw [breakDomain_eq .age hsound (.inr (by rw [hget]; exact hd)), hget]
  simp only [flowReleased, hfree]
  simp only [ageBroken, flowReleased, ageTaken, modDomain, setFlag, Four.set_set]
  rfl

theorem storeSound_ageBroken (hs : storeSound s) (hd : (s.domains.get d).state = .opened) :
    storeSound (ageBroken s d) := by
  rw [← breakDomain_ageTaken hs hd, storeSound_iff]
  refine SoundStore.breakDomain d .age ?_
  rw [stored_ageTaken]
  exact (storeSound_iff s).mp hs

/-- A commit held for a slot goes on waiting while drain is pending, whichever domain has broken (R28). -/
theorem examine_ageBroken_heldCommit {p : Progress} {b : Dom} {tag : Word} (h : heldCommit s p b tag)
    (he : s.engine.state.stopped = false) : examine false (ageBroken s d) = ageBroken s d := by
  obtain ⟨hp, hk, hsound⟩ := h
  rw [holdSound, hk] at hsound
  obtain ⟨_, _, hfull, hlow⟩ := hsound
  have hslot : slotFree (ageBroken s d) = false := slotFree_eq_false (s := ageBroken s d) hfull
  have hq : s.queue ≠ [] := fun h => by simp [h] at hfull
  have hdrain : drainPending (ageBroken s d) = true := by simp [drainPending, ageBroken, hq, he, hlow]
  rw [examine_of_queueSlot (s := ageBroken s d) false hp hk]
  simp only [examineCommit, hslot, hdrain, Bool.false_eq_true, if_false, if_true]

/-- A drop after a break by the age counter: AGE is set beside BROKEN and DROPPED (R154). -/
theorem noted_age (m : Mgmt) :
    m.noted [.age, .broken, .dropped] [.groupsBroken, .writesDropped]
      = m.noted [.broken, .dropped, .age] [.groupsBroken, .writesDropped] := by
  simp only [Mgmt.noted, List.foldl, BitVec.or_assoc, BitVec.or_comm (FlagId.bit .age)]

/-- A staged write of the domain that has broken is dropped (R53). -/
theorem examine_ageBroken_own {p : Progress} {a : Addr} {l : Lanes} {w : Word} (h : heldWrite s p d a l w) :
    examine false (ageBroken s d) = brokeAndDropped s d .age [.age] (quietEnd p.ended) := by
  obtain ⟨hp, hk, ⟨hdp, ha⟩, _⟩ := h
  have hget : (ageBroken s d).domains.get d = brokenBy .age (s.domains.get d) := Four.get_set_same _ _ _
  have hexam : examineWrite false d a l w (ageBroken s d) = dropWrite .broken (ageBroken s d) := by
    simp only [examineWrite, hget, brokenBy, reduceCtorEq, if_true, if_false]
  rw [examine_of_storeSpace (s := ageBroken s d) false hp hk ha, hexam, dropWrite_eq (s := ageBroken s d) .broken hp]
  exact congrArg (fun m : Mgmt => { brokeAndDropped s d .age [] (quietEnd p.ended) with mgmt := m }) (noted_age s.mgmt)

/-- A staged write of another domain is examined under the store's new flow state (R52, R53). -/
theorem examine_ageBroken_other {p : Progress} {b : Dom} {a : Addr} {l : Lanes} {w : Word} (h : heldWrite s p b a l w)
    (hb : b ≠ d) (hs : storeSound s) (hd : (s.domains.get d).state = .opened) :
    examine false (ageBroken s d) = examinedWrite (ageBroken s d) b a l w (quietEnd p.ended) := by
  obtain ⟨hp, hk, ⟨hdp, ha⟩, hsound⟩ := h
  rw [holdSound, hk] at hsound
  obtain ⟨htakes, _, hlow, a', l', w', hdp', ha', _, hnew⟩ := hsound
  cases ha.symm.trans ha'
  have hget : (ageBroken s d).domains.get b = s.domains.get b := Four.get_set_of_ne _ _ hb
  rw [examine_of_storeSpace (s := ageBroken s d) false hp hk ha]
  refine examineWrite_eq (s := ageBroken s d) l w hp ?_ hlow ?_ (storeSound_ageBroken hs hd)
  · rw [takesWrites, hget]
    exact htakes
  · rw [hget]
    exact hnew

/-! ### COMMIT with a free slot -/

/-- The open group of d is queued at its age expiry with the auto tag, AGE set (R153). -/
def ageQueued (s : State) (d : Dom) : State := setFlag .age (queueGroup d (autoTag s d) false s)

/-- A staged write held for space goes on being what its hold asks for where its domain is emptied. -/
theorem waitingSound_ageQueued (d : Dom)
    (h : noneWaiting s ∨ ∃ p b a l w, heldWrite s p b a l w ∧ s.engine.state.stopped = false) :
    waitingSound (ageQueued s d) := by
  obtain hn | ⟨p, b, a, l, w, ⟨hp, hk, _, hsound⟩, _⟩ := h
  · exact .inl hn
  · refine .inr fun q hq => ?_
    cases hp.symm.trans hq
    rw [holdSound, hk] at hsound ⊢
    obtain ⟨htakes, hflow, hlow, a', l', w', hdp', ha', hl', hnew⟩ := hsound
    have hget : (ageQueued s d).domains.get b
        = if b = d then emptied (s.domains.get d) (autoTag s d) else s.domains.get b := Four.get_set _ _ _ _
    refine ⟨?_, hflow, hlow, a', l', w', hdp', ha', hl', ?_⟩
    · rw [takesWrites, hget]
      split
      · exact .inl rfl
      · exact htakes
    · rw [hget]
      split
      · nofun
      · exact hnew

/-- An access that waits goes on waiting at a begin, after which drain is pending (R52, R96). -/
theorem beginAndExamine_eq_tryBegin (hw : waitingSound s) : beginAndExamine s = tryBegin s := by
  unfold beginAndExamine tryBegin
  split
  · next hc =>
    obtain ⟨_, hq, _⟩ := (canBegin_iff s).mp hc
    have hstop : (firstPhase s.straps).stopped = false := by
      obtain h | h := firstPhase_cases s.straps <;> rw [h] <;> rfl
    rw [beginHead_eq]
    exact examine_of_draining (v := { s.engine with state := firstPhase s.straps }) _ hw hq hstop
  · rfl

theorem canBegin_ageQueued (s : State) (d : Dom) :
    canBegin (ageQueued s d) = true ↔ s.engine.state = .idle ∧ mayBegin s := by
  have hq : (ageQueued s d).queue ≠ [] := queue_queueGroup_ne_nil d _ false s
  rw [canBegin_iff]
  exact and_congr_right fun _ => and_iff_right hq

/-- The state with the group queued, and the engine begun where it was in IDLE and may begin (R96, R153). -/
theorem tryBegin_ageQueued (s : State) (d : Dom) : tryBegin (ageQueued s d) = { s with
    queue := s.queue ++ [recordOf s d (autoTag s d) false]
    domains := s.domains.set d (emptied (s.domains.get d) (autoTag s d))
    engine := { s.engine with
      seq := s.engine.seq + 1#16
      state := if s.engine.state = .idle ∧ mayBegin s then firstPhase s.straps else s.engine.state }
    mgmt := s.mgmt.noted [.age] [.groupsCommitted]
    port := (tryBegin (ageQueued s d)).port } := by
  refine (tryBegin_eq _).trans ?_
  simp only [canBegin_ageQueued]
  rfl

theorem engineOutstanding_ageQueued (d : Dom) (h : engineSound s) :
    engineOutstanding (tryBegin (ageQueued s d)).port = engineRequest (tryBegin (ageQueued s d)) := by
  obtain ⟨hflight, hout, _⟩ := h
  refine engineOutstanding_tryBegin (hout.trans (Eq.symm ?_))
  exact engineRequest_of_append (s := s) (recordOf s d (autoTag s d) false) rfl rfl rfl hflight

end Expiry

/-- Settles O47: AGE is set and the mark goes away; then each action, and the examination of an access that waits. -/
theorem ageExpiries : Obligations.AgeExpiries := by
  refine ⟨fun s d hn => ⟨fun hdue => ?_, fun hdue => ⟨fun ha => ?_, fun ha hq => ?_, fun ha hd hs t ht => ?_⟩⟩,
    fun s d hdue ha hq hw he => ?_, fun s d => ⟨toNat_autoTag s d, autoTag_ne_abortval s d⟩⟩
  · exact congrArg _ ((takeExpiry_age d hn).trans (ageExpiry_notDue hdue))
  · exact congrArg _ ((takeExpiry_age d hn).trans (ageExpiry_notify hdue ha))
  · refine congrArg _ ((takeExpiry_age d hn).trans ((ageExpiry_commit_full hdue ha hq).trans ?_))
    simp only [ageTaken, modDomain, setFlag, Four.set_set, Four.get_set_same]
    rfl
  · replace ht : t = ageBroken s d := ht
    subst ht
    have hexec : exec (.ageExpiry d) s = .next (examine false (ageBroken s d)) := by
      rw [← breakDomain_ageTaken hs hd, ← ageExpiry_abandon hdue ha, ← takeExpiry_age d hn]
      rfl
    rw [hexec]
    refine ⟨fun hw => congrArg _ ?_, fun p b a l w hw _ => ⟨fun hb => congrArg _ ?_, fun hb => congrArg _ ?_⟩⟩
    · obtain hw | ⟨⟨p, b, tag, hc⟩, hgo⟩ := hw
      · exact examine_of_noneWaiting (s := ageBroken s d) false hw
      · exact examine_ageBroken_heldCommit hc hgo
    · subst hb
      exact examine_ageBroken_own hw
    · exact examine_ageBroken_other hw hb hs hd
  · have hage : ageExpiry d s = tryBegin (ageQueued s d) :=
      (ageExpiry_commit_free hdue ha hq).trans (beginAndExamine_eq_tryBegin (waitingSound_ageQueued d hw))
    have hport : (tryBegin (ageQueued s d)).host.port = s.host.port := congrArg HostSide.port (host_tryBegin _)
    exact ⟨tryBegin (ageQueued s d), congrArg Host.Outcome.next (settle_eq_of_same_port hage hport),
      tryBegin_ageQueued s d, engineOutstanding_ageQueued d he⟩

end Sys2Proof.Machine
end

section
/-! PROOFS. No expiry looks at the samples of PWARN# (R158): each operation that an expiry goes through commutes with other
samples. So the expiries that a tick takes before the effect of its sample may as well be taken after it, where the sample
changes no filtered state. -/

namespace Sys2Proof.Machine

/-! ### Operations that look at no sample -/

/-- The state with other samples of PWARN#, in the same filtered state. -/
def resampled (last previous : Bool) (s : State) : State :=
  { s with power := { s.power with last := last, previous := previous } }

theorem resampled_host (l p : Bool) (s : State) : (resampled l p s).host = s.host := rfl

theorem resampled_port (l p : Bool) (s : State) : (resampled l p s).port = s.port := rfl

theorem resampled_engine (l p : Bool) (s : State) : (resampled l p s).engine = s.engine := rfl

theorem resampled_domains (l p : Bool) (s : State) : (resampled l p s).domains = s.domains := rfl

theorem resampled_straps (l p : Bool) (s : State) : (resampled l p s).straps = s.straps := rfl

theorem withPort_resampled (l p : Bool) (s : State) (v : Port) :
    { resampled l p s with port := v } = resampled l p { s with port := v } := rfl

theorem heldFor_resampled (l p : Bool) (s : State) : heldFor (resampled l p s) = heldFor s := rfl

theorem engineRequest_resampled (l p : Bool) (s : State) : engineRequest (resampled l p s) = engineRequest s := rfl

theorem classDropCause_resampled (l p : Bool) (s : State) (c : Class) :
    classDropCause (resampled l p s) c = classDropCause s c := rfl

/-- An operation that looks at no sample of PWARN#, and leaves them. -/
def sampleFree (f : State → State) : Prop :=
  ∀ (last previous : Bool) (s : State), f (resampled last previous s) = resampled last previous (f s)

namespace sampleFree

variable {f g : State → State}

theorem id : sampleFree fun s => s := fun _ _ _ => rfl

theorem comp (hf : sampleFree f) (hg : sampleFree g) : sampleFree fun s => f (g s) := fun l p s =>
  (congrArg f (hg l p s)).trans (hf l p (g s))

/-- A choice by a condition that looks at no sample. -/
theorem ite {c : State → Prop} [DecidablePred c] (hf : sampleFree f) (hg : sampleFree g)
    (hc : ∀ l p s, c (resampled l p s) = c s := by exact fun _ _ _ => rfl) :
    sampleFree fun s => if c s then f s else g s := by
  intro l p s
  simp only [hc, hf l p s, hg l p s]
  split <;> rfl

/-- An operation with an argument that looks at no sample. -/
theorem arg {α : Type} {F : α → State → State} (v : State → α) (hF : ∀ x, sampleFree (F x))
    (hv : ∀ l p s, v (resampled l p s) = v s := by exact fun _ _ _ => rfl) : sampleFree fun s => F (v s) s := fun l p s =>
  (congrArg (fun x => F x (resampled l p s)) (hv l p s)).trans (hF (v s) l p s)

end sampleFree

/-! ### The access in progress -/

theorem sampleFree_setFlag (f : FlagId) : sampleFree (setFlag f) := fun _ _ _ => rfl

theorem sampleFree_bump (c : CounterId) : sampleFree (bump c) := fun _ _ _ => rfl

theorem sampleFree_modDomain (d : Dom) (f : Domain → Domain) : sampleFree (modDomain d f) := fun _ _ _ => rfl

theorem sampleFree_setEngine (e : EngineState) : sampleFree (setEngine e) := fun _ _ _ => rfl

theorem sampleFree_setHost (p : HostPort) : sampleFree (setHost p) := fun _ _ _ => rfl

theorem sampleFree_postRequest (who : Requester) (r : Request) : sampleFree (postRequest who r) := fun _ _ _ => rfl

theorem sampleFree_completeQuiet : sampleFree completeQuiet := by
  intro l p s
  unfold completeQuiet
  rw [resampled_host]
  split <;> rfl

theorem sampleFree_completeRead (w : Word) : sampleFree (completeRead w) := by
  intro l p s
  unfold completeRead
  rw [resampled_host]
  split <;> rfl

theorem sampleFree_setHold (k : Hold) : sampleFree (setHold k) := by
  intro l p s
  unfold setHold
  rw [resampled_host]
  split <;> rfl

theorem sampleFree_dropWrite (c : DropCause) : sampleFree (dropWrite c) :=
  sampleFree_completeQuiet.comp fun _ _ _ => rfl

theorem sampleFree_dropParity : sampleFree dropParity := (sampleFree_dropWrite _).comp (sampleFree_setFlag _)

theorem sampleFree_holdForRead (k : Hold) (a : Addr) : sampleFree (holdForRead k a) :=
  (sampleFree_postRequest _ _).comp (sampleFree_setHold k)

/-! ### The group protocol -/

theorem sampleFree_loadAge (d : Dom) : sampleFree (loadAge d) := .ite .id fun _ _ _ => rfl

theorem sampleFree_reloadIfIdle (d : Dom) : sampleFree (reloadIfIdle d) := .ite (sampleFree_loadAge d) .id

theorem sampleFree_flowAfterTake : sampleFree flowAfterTake := .ite (fun _ _ _ => rfl) .id

theorem sampleFree_flowAfterRelease (n : Nat) : sampleFree (flowAfterRelease n) := .ite (fun _ _ _ => rfl) .id

theorem sampleFree_breakCore (d : Dom) (c : BreakCause) : sampleFree (breakCore d c) := by
  intro l p s
  unfold breakCore
  rw [resampled_domains]
  split <;> rfl

theorem sampleFree_breakDomain (d : Dom) (c : BreakCause) : sampleFree (breakDomain d c) :=
  .arg freeCount fun n => (sampleFree_flowAfterRelease n).comp (sampleFree_breakCore d c)

theorem sampleFree_commitToBroken (d : Dom) : sampleFree (commitToBroken d) :=
  (sampleFree_dropWrite _).comp (sampleFree_modDomain d _)

theorem sampleFree_abortGroup (d : Dom) : sampleFree (abortGroup d) :=
  sampleFree_completeQuiet.comp (.arg freeCount fun n => (sampleFree_flowAfterRelease n).comp (sampleFree_modDomain d _))

theorem sampleFree_queueGroup (d : Dom) (tag : Word) (b : Bool) : sampleFree (queueGroup d tag b) := fun _ _ _ => rfl

theorem sampleFree_requestEngine : sampleFree requestEngine := by
  intro l p s
  unfold requestEngine
  rw [engineRequest_resampled]
  split <;> rfl

theorem sampleFree_beginHead : sampleFree beginHead := sampleFree_requestEngine.comp fun _ _ _ => rfl

theorem sampleFree_tryBegin : sampleFree tryBegin := .ite sampleFree_beginHead .id

theorem sampleFree_commitQueued (d : Dom) (tag : Word) : sampleFree (commitQueued d tag) :=
  .ite ((sampleFree_setHold _).comp (sampleFree_queueGroup d tag true))
    (sampleFree_completeQuiet.comp (sampleFree_queueGroup d tag false))

theorem sampleFree_takeCoalesce (d : Dom) (a : Addr) (l : Lanes) (w : Word) : sampleFree (takeCoalesce d a l w) :=
  sampleFree_completeQuiet.comp ((sampleFree_reloadIfIdle d).comp fun _ _ _ => rfl)

theorem sampleFree_takeNew (d : Dom) (a : Addr) (l : Lanes) (w : Word) : sampleFree (takeNew d a l w) :=
  sampleFree_completeQuiet.comp (sampleFree_flowAfterTake.comp
    (.ite ((sampleFree_reloadIfIdle d).comp fun _ _ _ => rfl) ((sampleFree_loadAge d).comp fun _ _ _ => rfl)))

theorem sampleFree_placeNow (d : Dom) (a : Addr) (l : Lanes) (w : Word) : sampleFree (placeNow d a l w) :=
  .ite (sampleFree_takeCoalesce d a l w)
    (.ite ((sampleFree_dropWrite _).comp (sampleFree_breakDomain d _)) (sampleFree_takeNew d a l w))

/-! ### Examinations -/

theorem sampleFree_examineWrite (x : Bool) (d : Dom) (a : Addr) (l : Lanes) (w : Word) :
    sampleFree (examineWrite x d a l w) :=
  .ite (.arg (F := dropWrite) _ sampleFree_dropWrite)
    (.ite (sampleFree_dropWrite _) (.ite (sampleFree_placeNow d a l w)
      (.ite ((sampleFree_dropWrite _).comp ((sampleFree_setFlag _).comp (sampleFree_breakDomain d _)))
        (.ite .id ((sampleFree_dropWrite _).comp (sampleFree_breakDomain d _))))))

theorem sampleFree_examineCommit (x : Bool) (d : Dom) (tag : Word) : sampleFree (examineCommit x d tag) :=
  .ite (sampleFree_tryBegin.comp (sampleFree_commitQueued d tag))
    (.ite ((sampleFree_commitToBroken d).comp ((sampleFree_setFlag _).comp (sampleFree_breakDomain d _)))
      (.ite .id ((sampleFree_commitToBroken d).comp (sampleFree_breakDomain d _))))

theorem sampleFree_examine (x : Bool) : sampleFree (examine x) := by
  intro l p s
  unfold examine
  rw [resampled_host]
  split
  · split
    · exact sampleFree_examineWrite x _ _ _ _ l p s
    · exact sampleFree_examineCommit x _ _ l p s
    · rfl
  · rfl

theorem sampleFree_beginAndExamine : sampleFree beginAndExamine :=
  .ite ((sampleFree_examine false).comp sampleFree_beginHead) .id

/-! ### Accesses as they are presented -/

theorem sampleFree_stagedRead (d : Dom) (a : Addr) : sampleFree (stagedRead d a) :=
  .ite (.arg (fun s => mergedWord s d a 0#16) fun w => (sampleFree_completeRead w).comp (sampleFree_bump _))
    (sampleFree_holdForRead _ a)

theorem sampleFree_classifiedRead (c : Class) (a : Addr) : sampleFree (classifiedRead c a) := by
  cases c with
  | outside | reserved => exact sampleFree_completeRead _
  | stage d => exact .ite (sampleFree_stagedRead d a) (sampleFree_holdForRead _ a)
  | commitCell | pass | deny => exact sampleFree_holdForRead _ a

theorem sampleFree_stagedWrite (d : Dom) (a : Addr) (l : Lanes) (w : Word) (bad : Bool) :
    sampleFree (stagedWrite d a l w bad) :=
  .ite (sampleFree_dropParity.comp (sampleFree_breakDomain d _)) (.ite (sampleFree_dropWrite _)
    (.ite (sampleFree_placeNow d a l w) ((sampleFree_examine false).comp (sampleFree_setHold _))))

theorem sampleFree_holdCommit (d : Dom) (tag : Word) : sampleFree (holdCommit d tag) :=
  (sampleFree_examine false).comp ((sampleFree_setHold _).comp (sampleFree_modDomain d _))

theorem sampleFree_commitGroup (d : Dom) (tag : Word) : sampleFree (commitGroup d tag) :=
  .ite (sampleFree_commitToBroken d)
    (.ite (sampleFree_tryBegin.comp (sampleFree_commitQueued d tag)) (sampleFree_holdCommit d tag))

theorem sampleFree_commitCellWrite (d : Dom) (l : Lanes) (w : Word) (bad : Bool) :
    sampleFree (commitCellWrite d l w bad) :=
  .ite ((sampleFree_dropWrite _).comp (.ite (sampleFree_breakDomain d _) .id))
    (.ite (sampleFree_dropParity.comp (sampleFree_breakDomain d _))
      (.ite (sampleFree_abortGroup d) (sampleFree_commitGroup d w)))

theorem sampleFree_passWrite (a : Addr) (l : Lanes) (w : Word) (bad : Bool) : sampleFree (passWrite a l w bad) :=
  .ite sampleFree_dropParity ((sampleFree_postRequest _ _).comp (sampleFree_setHold _))

theorem sampleFree_classifiedWrite (c : Class) (a : Addr) (l : Lanes) (w : Word) (hdp : Option (BitVec 2)) :
    sampleFree (classifiedWrite c a l w hdp) := by
  intro last p s
  unfold classifiedWrite
  rw [classDropCause_resampled]
  split
  · exact sampleFree_dropWrite _ last p s
  · cases c with
    | commitCell d => exact sampleFree_commitCellWrite d l w _ last p s
    | stage d => exact sampleFree_stagedWrite d a l w _ last p s
    | pass => exact sampleFree_passWrite a l w _ last p s
    | outside | reserved | deny => rfl

theorem sampleFree_presentAccess (a : Access) : sampleFree (presentAccess a) := by
  cases a with
  | malformed => exact sampleFree_completeQuiet
  | read addr => exact .arg (classify · addr) fun c => sampleFree_classifiedRead c addr
  | write addr l w hdp =>
    exact .ite sampleFree_completeQuiet (.arg (classify · addr) fun c => sampleFree_classifiedWrite c addr l w hdp)

theorem sampleFree_arrive (a : Access) : sampleFree (arrive a) :=
  .ite (sampleFree_setHost _) ((sampleFree_presentAccess a).comp (sampleFree_setHost _))

theorem settle_resampled (l p : Bool) (before s : State) :
    settle (resampled l p before) (resampled l p s) = resampled l p (settle before s) := by
  unfold settle
  dsimp only
  rw [resampled_host, resampled_host, resampled_straps]
  split
  · split
    · exact sampleFree_arrive _ l p { s with host := { s.host with again := none } }
    · rfl
  · rfl

theorem sampleFree_releaseHeld : sampleFree releaseHeld := by
  intro l p s
  unfold releaseHeld
  rw [resampled_host]
  split
  · split
    · exact (sampleFree_presentAccess _).comp (sampleFree_setHost _) l p s
    · rfl
  · rfl

/-! ### Expiries -/

theorem sampleFree_holdExpiry : sampleFree holdExpiry := by
  intro l p s
  unfold holdExpiry
  rw [resampled_host]
  split
  · split
    · split
      · exact sampleFree_completeQuiet l p (setFlag .hold (clearSyncFlags s))
      · exact sampleFree_examine true l p s
    · rfl
  · rfl

theorem sampleFree_hostTimedOut : sampleFree hostTimedOut := by
  intro l p s
  unfold hostTimedOut
  dsimp only
  rw [resampled_port, withPort_resampled, sampleFree_setFlag _ l p, heldFor_resampled]
  split
  · exact sampleFree_completeQuiet l p _
  · exact sampleFree_completeRead _ l p _
  · exact sampleFree_completeRead _ l p _
  · rfl

theorem sampleFree_fault (q : Phase) (i : Nat) : sampleFree (fault q i) :=
  (sampleFree_examine false).comp ((sampleFree_setEngine _).comp (sampleFree_setFlag _))

theorem sampleFree_failRecovery (c : BlockCause) : sampleFree (failRecovery c) :=
  sampleFree_releaseHeld.comp ((sampleFree_setEngine _).comp (sampleFree_setFlag _))

theorem sampleFree_engineTimedOut : sampleFree engineTimedOut := by
  intro l p s
  unfold engineTimedOut
  dsimp only
  rw [resampled_port, withPort_resampled, sampleFree_setFlag _ l p, resampled_engine]
  split
  · exact sampleFree_failRecovery _ l p _
  · split <;> rfl
  · rfl
  · exact sampleFree_fault _ _ l p _
  · exact sampleFree_fault _ _ l p _
  · exact sampleFree_fault _ _ l p _
  · exact sampleFree_fault _ _ l p _
  · rfl

theorem sampleFree_accessTimeout (left : Option Word) : sampleFree (accessTimeout left) := by
  intro l p s
  unfold accessTimeout
  dsimp only
  rw [resampled_port]
  split
  · rfl
  · split
    · split
      · exact sampleFree_hostTimedOut l p { s with array := interrupted left s, port := s.port.finish }
      · exact sampleFree_engineTimedOut l p { s with array := interrupted left s, port := s.port.finish }
      · rfl
    · rfl

theorem sampleFree_ageExpiry (d : Dom) : sampleFree (ageExpiry d) := by
  intro l p s
  unfold ageExpiry
  dsimp only
  rw [resampled_domains, sampleFree_modDomain d _ l p s, sampleFree_setFlag _ l p]
  split
  · split
    · rfl
    · exact sampleFree.ite (c := fun t => slotFree t = true)
        (sampleFree_beginAndExamine.comp (.arg (F := fun tag => queueGroup d tag false) (autoTag · d)
          fun tag => sampleFree_queueGroup d tag false)) (sampleFree_modDomain d _) (fun _ _ _ => rfl) l p _
    · exact (sampleFree_examine false).comp (sampleFree_breakDomain d _) l p _
  · rfl

theorem sampleFree_expire (e : Expiry) : sampleFree (expire · e) := by
  cases e with
  | hold => exact sampleFree_holdExpiry
  | array left => exact sampleFree_accessTimeout left
  | age d => exact sampleFree_ageExpiry d

theorem sampleFree_takeExpiry (e : Expiry) : sampleFree (takeExpiry · e) := fun l p s =>
  (congrArg (settle _) (sampleFree_expire e l p s)).trans (settle_resampled l p s (expire s e))

theorem sampleFree_foldl_takeExpiry (early : List Expiry) : sampleFree (early.foldl takeExpiry) := by
  induction early with
  | nil => exact .id
  | cons e es ih => exact ih.comp (sampleFree_takeExpiry e)

end Sys2Proof.Machine
end

section
/-! PROOFS. A tick in which the filtered state of PWARN# stays: what its counts leave of each timer, and the expiries that it
takes, each as its own row. -/

namespace Sys2Proof.Machine

section Counts

variable {s : State}

/-! ### What the counts leave -/

theorem limitReached_eq (limit : Word) (n : Nat) :
    limitReached limit n = decide (limit ≠ 0#16 ∧ limit.toNat ≤ n) := by
  rw [Bool.eq_iff_iff]
  simp [limitReached]

/-- An access in progress after a tick (R72). -/
def Progress.ticked (holdlim : Word) (p : Progress) : Progress :=
  if p.hold.limited then { p with count := p.count + 1, due := limitReached holdlim (p.count + 1) } else p

/-- The Host Port after a tick (R72). -/
def HostSide.ticked (h : HostSide) : HostPort :=
  match h.port with
  | .inProgress p => .inProgress (p.ticked h.holdlim)
  | other => other

/-- An array access after a tick (R137). -/
def ArrayAccess.ticked (arrto : Word) (a : ArrayAccess) : ArrayAccess :=
  { a with count := a.count + 1, due := limitReached arrto (a.count + 1) }

theorem HostSide.ticked_inProgress {h : HostSide} {p : Progress} (hp : h.port = .inProgress p) :
    h.ticked = .inProgress (p.ticked h.holdlim) := by
  rw [HostSide.ticked, hp]

theorem HostSide.ticked_of_not_inProgress {h : HostSide} (hn : ∀ p, h.port ≠ .inProgress p) : h.ticked = h.port := by
  unfold HostSide.ticked
  split
  · next p hp => exact absurd hp (hn p)
  · rfl

theorem tickHold_eq (s : State) : tickHold s = setHost s.host.ticked s := by
  unfold tickHold
  split
  · next p hp =>
    rw [HostSide.ticked_inProgress hp, Progress.ticked]
    split
    · rfl
    · rw [← hp]
      rfl
  · next hn =>
    rw [HostSide.ticked_of_not_inProgress hn]
    rfl

theorem tickArray_eq (s : State) : tickArray s
    = { s with port := { s.port with access := s.port.access.map (ArrayAccess.ticked s.port.arrto) } } := by
  unfold tickArray
  split
  · next ha => rw [ha, Option.map_none, ← ha]
  · next a ha =>
    rw [ha]
    rfl

/-- Each count takes the tick on its own state, and nothing else changes (R144). -/
theorem tickCounts_eq (s : State) : tickCounts s = { s with
    domains := Four.ofFn (tickAge s), host := { s.host with port := s.host.ticked }
    port := { s.port with access := s.port.access.map (ArrayAccess.ticked s.port.arrto) }
    ticks := { s.ticks with divCount := 0 } } := by
  rw [tickCounts, tickHold_eq, tickArray_eq]
  rfl

theorem ageCounting_iff (s : State) (d : Dom) : ageCounting s d = true
    ↔ (s.domains.get d).state = .opened ∧ (s.domains.get d).closing = false ∧ (s.domains.get d).autoPending = false
      ∧ (s.domains.get d).age ≠ 0#16 ∧ ¬(s.ticks.chain01 = true ∧ d = .i1) ∧ ¬(s.ticks.chain23 = true ∧ d = .i3) := by
  have hupper : (!upperChained s.ticks d) = true
      ↔ ¬(s.ticks.chain01 = true ∧ d = .i1) ∧ ¬(s.ticks.chain23 = true ∧ d = .i3) := by
    cases d <;> simp [upperChained]
  simp only [ageCounting, Bool.and_eq_true, hupper, beq_iff_eq, bne_iff_ne, Bool.not_eq_true', and_assoc]

/-! ### The sample and the expiries -/

theorem power_eq_of_sameSettings {t : State} (h : sameSettings s t) : t.power = s.power := by
  obtain ⟨_, _, _, _, _, hpower, _⟩ := h
  exact hpower

theorem power_accessTimeout (left : Option Word) (s : State) : (accessTimeout left s).power = s.power := by
  unfold accessTimeout
  split
  · rfl
  · split
    · dsimp only
      split
      · exact power_eq_of_sameSettings (s := { s with array := interrupted left s, port := s.port.finish })
          (sameSettings_hostTimedOut (sameSettings_refl _))
      · exact power_eq_of_sameSettings (s := { s with array := interrupted left s, port := s.port.finish })
          (sameSettings_engineTimedOut (sameSettings_refl _))
      · rfl
    · rfl

theorem power_takeExpiry (e : Expiry) (s : State) : (takeExpiry s e).power = s.power := by
  refine (power_eq_of_sameSettings (sameSettings_settle s (sameSettings_refl _))).trans ?_
  cases e with
  | hold => exact power_eq_of_sameSettings (sameSettings_holdExpiry (sameSettings_refl s))
  | array left => exact power_accessTimeout left s
  | age d => exact power_eq_of_sameSettings (sameSettings_ageExpiry d (sameSettings_refl s))

theorem power_foldl_takeExpiry (early : List Expiry) (s : State) : (early.foldl takeExpiry s).power = s.power :=
  List.foldlRecOn early _ (motive := fun u => u.power = s.power) rfl fun u hu e _ => (power_takeExpiry e u).trans hu

/-- A sample that does not differ from the filtered state, or one after such a sample, changes the samples alone (R158). -/
theorem samplePwarn_kept {low : Bool} (h : low = s.power.low ∨ s.power.last = s.power.low) :
    samplePwarn low s = resampled low s.power.last s := by
  unfold samplePwarn
  dsimp only
  split
  · next hl =>
    rw [if_neg (by rw [hl] at h; obtain h | h := h <;> simp [h])]
    rfl
  · next hl =>
    rw [Bool.not_eq_true] at hl
    rw [if_neg (by rw [hl] at h; obtain h | h := h <;> simp [h])]
    rfl

/-- The expiries of a tick look at no sample, so they may be taken after the tick (R158). -/
theorem tickStep_kept {low : Bool} (early : List Expiry) (h : low = s.power.low ∨ s.power.last = s.power.low) :
    tickStep low early s = early.foldl takeExpiry (resampled low s.power.last (tickCounts s)) := by
  have hpower : (early.foldl takeExpiry (tickCounts s)).power = s.power := by
    rw [power_foldl_takeExpiry, tickCounts_eq]
  have hsample : samplePwarn low (early.foldl takeExpiry (tickCounts s))
      = resampled low s.power.last (early.foldl takeExpiry (tickCounts s)) := by
    rw [← hpower] at h ⊢
    exact samplePwarn_kept h
  refine Eq.trans ?_ (sampleFree_foldl_takeExpiry early low s.power.last (tickCounts s)).symm
  rw [← hsample]
  exact settle_of_same_port (by rw [hsample, resampled_host])

end Counts

/-- Settles O46: the counts, then the samples, then the expiries that are taken within the tick, which look at no sample. -/
theorem tickMovesTheCounts : Obligations.TickMovesTheCounts := by
  intro s low h
  refine ⟨resampled low s.power.last (tickCounts s), congrArg Host.Outcome.next (tickStep_kept [] h), ?_, fun p hp => ?_,
    fun hn => ?_, ?_, fun d => ?_, fun early => congrArg Host.Outcome.next (tickStep_kept early h), fun e u => ?_⟩
  · rw [tickCounts_eq]
    rfl
  · rw [tickCounts_eq]
    refine (HostSide.ticked_inProgress hp).trans (congrArg HostPort.inProgress ?_)
    rw [Progress.ticked, limitReached_eq]
    cases p.hold <;> rfl
  · rw [tickCounts_eq]
    exact HostSide.ticked_of_not_inProgress hn
  · rw [tickCounts_eq]
    simp only [← limitReached_eq]
    rfl
  · rw [tickCounts_eq]
    refine (Four.get_ofFn (tickAge s) d).trans ?_
    simp only [tickAge, ageCounting_iff, beq_eq_decide]
  · cases e <;> rfl

end Sys2Proof.Machine
end

section
/-! PROOFS. The Power Warning Filter at a tick (R158) and the return to NORMAL (R166). The expiries that a tick takes before
its sample leave the state that the same counts and expiries leave under a sample that changes nothing, but for the samples. -/

namespace Sys2Proof.Machine

section Filter

variable {s : State}

/-! ### The sample -/

theorem power_powerEntry (s : State) : (powerEntry s).power = { s.power with low := true } :=
  power_eq_of_sameSettings (s := setFlag .power { s with power := { s.power with low := true } })
    (sameSettings_endHeldByPower (sameSettings_flowAfterRelease _ (sameSettings_breakAll .power (sameSettings_refl _))))

theorem power_powerReturn (s : State) : (powerReturn s).power = { s.power with low := false } :=
  power_eq_of_sameSettings (s := setFlag .powerok { s with power := { s.power with low := false } })
    (sameSettings_beginAndExamine (sameSettings_refl _))

/-- Two high samples in POWER_LOW return to NORMAL (R158). -/
theorem samplePwarn_returns (hlow : s.power.low = true) (hlast : s.power.last = false) :
    samplePwarn false s = powerReturn (resampled false false s) := by
  simp only [samplePwarn, hlow, hlast, resampled, Bool.not_false, Bool.and_self, if_true]

/-- Two low samples in NORMAL enter POWER_LOW (R158). -/
theorem samplePwarn_enters (hlow : s.power.low = false) (hlast : s.power.last = true) :
    samplePwarn true s = powerEntry (resampled true true s) := by
  simp only [samplePwarn, hlow, hlast, resampled, Bool.false_eq_true, Bool.and_self, if_true, if_false]

/-- The filter's table (R158): a sample moves the filtered state where it and the one before it both differ from it. -/
theorem power_samplePwarn (low : Bool) (s : State) : (samplePwarn low s).power =
    ⟨if s.power.low = false ∧ low = true ∧ s.power.last = true then true
      else if s.power.low = true ∧ low = false ∧ s.power.last = false then false else s.power.low, low, s.power.last⟩ := by
  by_cases hkept : low = s.power.low ∨ s.power.last = s.power.low
  · have henter : ¬(s.power.low = false ∧ low = true ∧ s.power.last = true) := fun ⟨hl, hnew, hlast⟩ => by
      simp [hl, hnew, hlast] at hkept
    have hreturn : ¬(s.power.low = true ∧ low = false ∧ s.power.last = false) := fun ⟨hl, hnew, hlast⟩ => by
      simp [hl, hnew, hlast] at hkept
    rw [samplePwarn_kept hkept, if_neg henter, if_neg hreturn]
    rfl
  · obtain ⟨hnew, hlast⟩ := not_or.mp hkept
    cases hl : s.power.low with
    | true =>
      rw [hl, Bool.not_eq_true] at hnew hlast
      subst hnew
      rw [samplePwarn_returns hl hlast, power_powerReturn, hlast]
      rfl
    | false =>
      rw [hl, Bool.not_eq_false] at hnew hlast
      subst hnew
      rw [samplePwarn_enters hl hlast, power_powerEntry, hlast]
      rfl

theorem power_tickStep (low : Bool) (early : List Expiry) (s : State) :
    (tickStep low early s).power = (samplePwarn low (early.foldl takeExpiry (tickCounts s))).power :=
  power_eq_of_sameSettings (sameSettings_settle _ (sameSettings_refl _))

theorem power_beforeSample (early : List Expiry) (s : State) :
    (early.foldl takeExpiry (tickCounts s)).power = s.power := by
  rw [power_foldl_takeExpiry, tickCounts_eq]

/-! ### What stands before the sample takes effect -/

/-- `v` is the state that the counts and the expiries leave, told by a tick whose own sample `low` changes nothing: a tick
with any other sample acts on `v` but for the samples. -/
theorem exec_tick_of_kept {w v : State} {low : Bool} {early : List Expiry}
    (hkept : low = s.power.low ∨ s.power.last = s.power.low) (hw : exec (.tick low []) s = .next w)
    (hv : v = early.foldl takeExpiry w) (new : Bool) :
    v.power.low = s.power.low ∧ exec (.tick new early) s
      = .next (settle v (samplePwarn new (resampled s.power.last s.power.previous v))) := by
  have hcounts : w = resampled low s.power.last (tickCounts s) :=
    (Host.Outcome.next.inj hw).symm.trans (tickStep_kept [] hkept)
  have hbefore : v = resampled low s.power.last (early.foldl takeExpiry (tickCounts s)) := by
    rw [hv, hcounts]
    exact sampleFree_foldl_takeExpiry early _ _ _
  have hpower := power_beforeSample early s
  generalize hu : early.foldl takeExpiry (tickCounts s) = u at hbefore hpower
  have hback : resampled s.power.last s.power.previous v = u := by
    rw [hbefore, ← hpower]
    rfl
  refine ⟨by rw [hbefore, ← hpower]; rfl, ?_⟩
  rw [hback, hbefore]
  exact congrArg (fun x => Host.Outcome.next (settle x (samplePwarn new x))) hu

/-! ### The return to NORMAL -/

/-- The filtered state is NORMAL again and POWEROK is set; the engine has not begun a group yet (R166). -/
def returned (v : State) : State := { v with power := ⟨false, false, false⟩, mgmt := v.mgmt.noted [.powerok] [] }

theorem canBegin_returned (v : State) :
    canBegin (returned v) = true ↔ v.engine.state = .idle ∧ v.engine.hold = false ∧ v.queue ≠ [] := by
  have hmay : mayBegin (returned v) ↔ v.engine.hold = false := and_iff_left (.inl rfl)
  rw [canBegin_iff, hmay]
  exact and_congr_right fun _ => and_comm

/-- The return to NORMAL begins the head group where it may, and no access waits for that (R96, R166). -/
theorem powerReturn_resampled {v : State} (hn : noneWaiting v) :
    powerReturn (resampled false false v) = tryBegin (returned v) :=
  beginAndExamine_eq_tryBegin (s := returned v) (.inl hn)

theorem tryBegin_returned (v : State) : tryBegin (returned v) = { v with
    power := ⟨false, false, false⟩, mgmt := v.mgmt.noted [.powerok] []
    engine := { v.engine with state :=
      if v.engine.state = .idle ∧ v.engine.hold = false ∧ v.queue ≠ [] then firstPhase v.straps else v.engine.state }
    port := (tryBegin (returned v)).port } := by
  refine (tryBegin_eq _).trans ?_
  simp only [canBegin_returned]
  rfl

end Filter

/-- Settles O48: the filter's table, then the return to NORMAL as a begin of the head group, which returns no access to
IDLE. -/
theorem powerFilterAndReturn : Obligations.PowerFilterAndReturn := by
  refine ⟨fun s low early => ⟨tickStep low early s, rfl, ?_⟩, fun s w v early hlow hlast hw hv hn => ?_⟩
  · rw [power_tickStep, power_samplePwarn, power_beforeSample]
    exact ⟨rfl, rfl, rfl⟩
  · obtain ⟨hvlow, hexec⟩ := exec_tick_of_kept (.inl hlow.symm) hw hv false
    have hsample : samplePwarn false (resampled s.power.last s.power.previous v) = tryBegin (returned v) :=
      (samplePwarn_returns (s := resampled s.power.last s.power.previous v) (hvlow.trans hlow) hlast).trans
        (powerReturn_resampled hn)
    have hport : (tryBegin (returned v)).host.port = v.host.port := by rw [tryBegin_returned]
    refine ⟨tryBegin (returned v), ?_, tryBegin_returned v, fun he => ?_⟩
    · rw [hexec, hsample, settle_of_same_port hport]
    · obtain ⟨_, hout, _⟩ := he
      exact engineOutstanding_tryBegin (s := returned v) hout

end Sys2Proof.Machine
end

section
/-! PROOFS. Entry to POWER_LOW (R160, R161): the domains that break with one flow test for all their entries, then the end
of the access in progress. -/

namespace Sys2Proof.Machine

section Breaks

variable {s t : State} {c : BreakCause}

/-! ### Every domain that gives up its group has broken -/

theorem BrokeAmong.domain_all (h : BrokeAmong c s Ix4.all t) (d : Dom) :
    t.domains.get d = if breaks s d then brokenBy c (s.domains.get d) else s.domains.get d := by
  have hd : d ∈ Ix4.all := by cases d <;> decide
  simp only [h.domain d, hd, true_and]

/-- No group is open any more: a domain that does not break had none (R17). -/
theorem BrokeAmong.openEntries_eq (h : BrokeAmong c s Ix4.all t) (hs : ∀ d, domainSound s.straps (s.domains.get d)) :
    openEntries t = 0 := by
  have hgroup : ∀ d, (t.domains.get d).group = [] := fun d => by
    rw [h.domain_all]
    split
    · rfl
    · next hb => exact ((domainSound_iff _ _).mp (hs d)).group_eq_nil fun ho => hb ((breaks_iff s d).mpr (.inl ho))
  simp only [openEntries_eq_sum, hgroup, List.length_nil]

theorem BrokeAmong.freeCount_eq (h : BrokeAmong c s Ix4.all t) (hs : ∀ d, domainSound s.straps (s.domains.get d)) :
    freeCount t = 512 - queuedEntries s.queue := by
  have hqueue : t.queue = s.queue := by rw [h.frame]
  rw [Machine.freeCount_eq, usedEntries, h.openEntries_eq hs, hqueue, Nat.zero_add]

/-- The one flow test after a release counts the entries that have come free since (R57). -/
theorem ReleasedSince.store_flowAfterRelease (h : ReleasedSince s t) : (flowAfterRelease (freeCount s) t).store
    = { s.store with flow := flowReleased s (freeCount t - freeCount s) } := by
  have hle : freeCount s ≤ freeCount t := Nat.sub_le_sub_left h.used 512
  rw [flowAfterRelease_eq, h.store]
  simp only [flowReleased, Nat.sub_pos_iff_lt, Nat.add_sub_cancel' hle]

end Breaks

section Entry

variable {s t v : State}

/-! ### The state after the breaks -/

/-- POWER_LOW has been entered and POWER is set (R160). -/
def lowered (v : State) : State := setFlag .power { v with power := ⟨true, true, true⟩ }

/-- The domains have broken with cause POWER and one flow test has been made, before the access in progress ends (R160). -/
def powerBroken (v : State) : State := flowAfterRelease (freeCount v) (breakAll .power (lowered v))

theorem powerEntry_resampled (v : State) : powerEntry (resampled true true v) = endHeldByPower (powerBroken v) := rfl

/-- `t` is `v` at its entry to POWER_LOW, before the access in progress ends (R160). -/
structure EnteredPowerLow (v t : State) : Prop where
  frame : t = { v with
    power := ⟨true, true, true⟩, domains := t.domains, store := t.store
    mgmt := { v.mgmt with flags := t.mgmt.flags, counters := t.mgmt.counters } }
  domain : ∀ d, t.domains.get d = if breaks v d then brokenBy .power (v.domains.get d) else v.domains.get d
  free : freeCount t = 512 - queuedEntries v.queue
  store : t.store = { v.store with flow := flowReleased v (freeCount t - freeCount v) }
  power : t.flag .power = true
  broken : t.flag .broken = (v.flag .broken || Ix4.all.any (breaks v))
  flags : ∀ f, f ≠ .power → f ≠ .broken → t.flag f = v.flag f
  count : (t.mgmt.counters.get .groupsBroken).toNat
    = min 65535 ((v.mgmt.counters.get .groupsBroken).toNat + (Ix4.all.filter (breaks v)).length)
  counters : ∀ k, k ≠ .groupsBroken → t.mgmt.counters.get k = v.mgmt.counters.get k

theorem enteredPowerLow_powerBroken (h : ∀ d, domainSound v.straps (v.domains.get d)) :
    EnteredPowerLow v (powerBroken v) := by
  have hbroke := brokeAmong_breakAll (s := lowered v) .power h
  have hreleased : ReleasedSince v (breakAll .power (lowered v)) :=
    (ReleasedSince.of_stored_eq (s := v) (t := lowered v) rfl).breakAll .power
  have hflags : ∀ f, f ≠ .power → (lowered v).flag f = v.flag f := fun f hf =>
    setFlag_flag_of_ne { v with power := ⟨true, true, true⟩ } hf
  have hpower : (lowered v).flag .power = true := setFlag_flag_same .power _
  have hstore := hreleased.store_flowAfterRelease
  rw [powerBroken, flowAfterRelease_withStore]
  generalize breakAll .power (lowered v) = b at hbroke hstore ⊢
  refine ⟨?_, hbroke.domain_all, hbroke.freeCount_eq h, hstore, ?_, ?_, fun f hf hb => ?_, hbroke.count,
    hbroke.counters⟩
  · have hframe := hbroke.frame
    generalize b.domains = x at hframe ⊢
    generalize b.mgmt.flags = y at hframe ⊢
    generalize b.mgmt.counters = z at hframe ⊢
    rw [hframe]
    rfl
  · exact (hbroke.flags .power nofun).trans hpower
  · exact hbroke.broken.trans (congrArg (· || _) (hflags .broken nofun))
  · exact (hbroke.flags f hb).trans (hflags f hf)

/-- The tick that completes the second low sample acts on what its counts and expiries leave (R158, R160). -/
theorem exec_tick_enters {w : State} {early : List Expiry} (hlow : s.power.low = false) (hlast : s.power.last = true)
    (hw : exec (.tick false []) s = .next w) (hv : v = early.foldl takeExpiry w) (hagain : noneAgain v) :
    exec (.tick true early) s = .next (endHeldByPower (powerBroken v)) := by
  obtain ⟨hvlow, hexec⟩ := exec_tick_of_kept (.inl hlow.symm) hw hv true
  have hnone : noneAgain (samplePwarn true (resampled s.power.last s.power.previous v)) :=
    (indifferent_samplePwarn true).noneAgain hagain
  rw [hexec, settle_of_noneAgain v hnone, ← powerEntry_resampled]
  exact congrArg _ (samplePwarn_enters (s := resampled s.power.last s.power.previous v) (hvlow.trans hlow) hlast)

/-! ### The access in progress -/

/-- The access in progress at entry is dropped: a staged write held for space, or a commit held for a slot (R161). -/
def droppedByPower (s : State) : Bool := (heldFor s).any Hold.waits

theorem Hold.waits_iff (k : Hold) : k.waits = true ↔ (∃ d, k = .storeSpace d) ∨ ∃ d tag, k = .queueSlot d tag := by
  cases k <;> simp [Hold.waits]

theorem heldFor_of_inProgress {p : Progress} (hp : s.host.port = .inProgress p) : heldFor s = some p.hold := by
  rw [heldFor, hp]

theorem droppedByPower_iff (s : State) : droppedByPower s = true ↔ ∃ p, s.host.port = .inProgress p
    ∧ ((∃ d, p.hold = .storeSpace d) ∨ ∃ d tag, p.hold = .queueSlot d tag) := by
  simp only [← Hold.waits_iff, droppedByPower, Option.any_eq_true]
  constructor
  · rintro ⟨k, hk, hw⟩
    obtain ⟨p, hp, rfl⟩ := heldFor_eq_some hk
    exact ⟨p, hp, hw⟩
  · rintro ⟨p, hp, hw⟩
    exact ⟨p.hold, heldFor_of_inProgress hp, hw⟩

theorem endHeldByPower_waits {p : Progress} (hp : s.host.port = .inProgress p) (hw : p.hold.waits = true) :
    endHeldByPower s = { s with
      host := { s.host with port := quietEnd p.ended, dropcause := .power }
      mgmt := s.mgmt.noted [.dropped] [.writesDropped] } := by
  rw [← dropWrite_eq .power hp, endHeldByPower, heldFor_of_inProgress hp]
  obtain ⟨d, hk⟩ | ⟨d, tag, hk⟩ := (Hold.waits_iff _).mp hw <;> rw [hk]

theorem endHeldByPower_sync {p : Progress} {d : Dom} (hp : s.host.port = .inProgress p) (hk : p.hold = .sync d) :
    endHeldByPower s = { s with
      host := { s.host with port := quietEnd p.ended }, queue := s.queue.map (fun g => { g with sync := false }) } := by
  rw [endHeldByPower, heldFor_of_inProgress hp, hk]
  exact completeQuiet_eq (s := clearSyncFlags s) hp

theorem endHeldByPower_goesOn (hn : noneWaiting s) (hsync : ∀ p d, s.host.port = .inProgress p → p.hold ≠ .sync d) :
    endHeldByPower s = s := by
  unfold endHeldByPower
  split
  · next hk =>
    obtain ⟨p, hp, hk⟩ := heldFor_eq_some hk
    exact absurd hk ((hn p hp).1 _)
  · next hk =>
    obtain ⟨p, hp, hk⟩ := heldFor_eq_some hk
    exact absurd hk ((hn p hp).2 _ _)
  · next hk =>
    obtain ⟨p, hp, hk⟩ := heldFor_eq_some hk
    exact absurd hk (hsync p _ hp)
  · rfl

theorem noneWaiting_of_not_dropped (h : droppedByPower s = false) : noneWaiting s := fun p hp =>
  Hold.of_waits_eq_false (by rwa [droppedByPower, heldFor_of_inProgress hp] at h)

theorem stored_endHeldByPower (s : State) : (endHeldByPower s).stored = s.stored := by
  unfold endHeldByPower
  split
  · exact stored_dropWrite s .power
  · exact stored_dropWrite s .power
  · exact (stored_completeQuiet _).trans (stored_clearSyncFlags s)
  · rfl

theorem freeCount_endHeldByPower (s : State) : freeCount (endHeldByPower s) = freeCount s :=
  congrArg (fun x : Stored => 512 - x.used) (stored_endHeldByPower s)

/-- The end of the access in progress changes the Host Port, the queue's sync-waiter flags and a drop's records (R161). -/
theorem endHeldByPower_eq (s : State) : endHeldByPower s = { s with
    host := (endHeldByPower s).host, queue := (endHeldByPower s).queue
    mgmt := if droppedByPower s then s.mgmt.noted [.dropped] [.writesDropped] else s.mgmt } := by
  cases hd : droppedByPower s with
  | true =>
    obtain ⟨p, hp, hk⟩ := (droppedByPower_iff s).mp hd
    rw [endHeldByPower_waits hp ((Hold.waits_iff _).mpr hk)]
    rfl
  | false =>
    by_cases hsync : ∃ p d, s.host.port = .inProgress p ∧ p.hold = .sync d
    · obtain ⟨p, d, hp, hk⟩ := hsync
      rw [endHeldByPower_sync hp hk]
      rfl
    · rw [endHeldByPower_goesOn (noneWaiting_of_not_dropped hd) fun p d hp hk => hsync ⟨p, d, hp, hk⟩]
      rfl

/-- A drop's records in the management port (R70), where there is a drop. -/
theorem mgmt_endHeldByPower (s : State) : (endHeldByPower s).mgmt =
    if droppedByPower s then s.mgmt.noted [.dropped] [.writesDropped] else s.mgmt := by
  rw [endHeldByPower_eq]

theorem flag_dropped_endHeldByPower (s : State) :
    (endHeldByPower s).flag .dropped = (s.flag .dropped || droppedByPower s) := by
  rw [State.flag, mgmt_endHeldByPower]
  cases droppedByPower s with
  | true => exact (setFlag_flag_same .dropped s).trans (Bool.or_true _).symm
  | false => exact (Bool.or_false _).symm

theorem flag_endHeldByPower_of_ne (f : FlagId) (s : State) (hf : f ≠ .dropped) :
    (endHeldByPower s).flag f = s.flag f := by
  rw [State.flag, mgmt_endHeldByPower]
  cases droppedByPower s with
  | true => exact setFlag_flag_of_ne s hf
  | false => rfl

theorem writesDropped_endHeldByPower (s : State) : ((endHeldByPower s).mgmt.counters.get .writesDropped).toNat
    = min 65535 ((s.mgmt.counters.get .writesDropped).toNat + (droppedByPower s).toNat) := by
  rw [mgmt_endHeldByPower]
  cases droppedByPower s with
  | true => exact toNat_saturatingSucc _
  | false => exact (Nat.min_eq_right (Nat.le_of_lt_succ (BitVec.isLt _))).symm

theorem counter_endHeldByPower_of_ne (k : CounterId) (s : State) (hk : k ≠ .writesDropped) :
    (endHeldByPower s).mgmt.counters.get k = s.mgmt.counters.get k := by
  rw [mgmt_endHeldByPower]
  cases droppedByPower s with
  | true => exact Counters.get_set_of_ne _ _ hk
  | false => rfl

end Entry

/-- Settles O49: the breaks with one flow test for all their entries, then the end of the access in progress. -/
theorem powerLowEntry : Obligations.PowerLowEntry := by
  intro s w v early hlow hlast hw hv hagain hdom _
  have hexec := exec_tick_enters hlow hlast hw hv hagain
  have h := enteredPowerLow_powerBroken hdom
  generalize powerBroken v = b at hexec h
  have hframe := h.frame
  have hhost : b.host = v.host := by rw [hframe]
  have hqueue : b.queue = v.queue := by rw [hframe]
  have hport : b.host.port = v.host.port := congrArg HostSide.port hhost
  have hdrop : droppedByPower b = droppedByPower v := by rw [droppedByPower, droppedByPower, heldFor, heldFor, hport]
  have hend : endHeldByPower b = { v with
      power := ⟨true, true, true⟩, domains := b.domains, store := b.store, host := (endHeldByPower b).host
      queue := (endHeldByPower b).queue, mgmt := (endHeldByPower b).mgmt } := by
    rw [endHeldByPower_eq, hframe]
  have hmgmt : (endHeldByPower b).mgmt = { v.mgmt with
      flags := (endHeldByPower b).mgmt.flags, counters := (endHeldByPower b).mgmt.counters } := by
    rw [mgmt_endHeldByPower, hframe]
    split <;> rfl
  have hfree := freeCount_endHeldByPower b
  have hgoesOn : noneWaiting v → (∀ p d, v.host.port = .inProgress p → p.hold ≠ .sync d) → endHeldByPower b = b :=
    fun hn hs => endHeldByPower_goesOn (noneWaiting_of_same_port hport hn) fun p d hp => hs p d (hport ▸ hp)
  refine ⟨endHeldByPower b, breaks v, droppedByPower v, fun _ => rfl, droppedByPower_iff v, hexec,
    by rw [hend], by rw [hend], by rw [hend], by rw [hend], by rw [hend],
    by rw [hend], by rw [hend], by rw [hend], by rw [hend], by rw [hend],
    fun d => ?_, hfree.trans h.free, ?_, hmgmt, ?_, ?_, ?_, fun f hp hb hd => ?_, ?_, ?_, fun k hb hd => ?_,
    fun p hp => ⟨fun hd => ?_, fun ⟨d, hk⟩ => ?_, fun hk => ?_⟩, fun hno => ?_⟩
  · rw [hend]
    exact h.domain d
  · rw [hfree, hend]
    exact h.store
  · exact (flag_endHeldByPower_of_ne .power b nofun).trans h.power
  · exact (flag_endHeldByPower_of_ne .broken b nofun).trans h.broken
  · rw [flag_dropped_endHeldByPower, h.flags .dropped nofun nofun, hdrop]
  · exact (flag_endHeldByPower_of_ne f b hd).trans (h.flags f hp hb)
  · rw [counter_endHeldByPower_of_ne .groupsBroken b nofun, h.count]
  · rw [writesDropped_endHeldByPower, h.counters .writesDropped nofun, hdrop]
  · exact (counter_endHeldByPower_of_ne k b hd).trans (h.counters k hb)
  · rw [droppedByPower, heldFor_of_inProgress hp] at hd
    rw [endHeldByPower_waits (hport.trans hp) hd, ← hhost]
    exact ⟨rfl, hqueue⟩
  · rw [endHeldByPower_sync (hport.trans hp) hk, ← hhost, ← hqueue]
    exact ⟨rfl, rfl⟩
  · have hkeep : p.hold.waits = false ∧ ∀ d, p.hold ≠ .sync d := by
      obtain hk | ⟨_, hk⟩ | hk | hk := hk <;> rw [hk] <;> exact ⟨rfl, nofun⟩
    obtain ⟨hwait, hsync⟩ := hkeep
    rw [hgoesOn (noneWaiting_of_waits_eq_false hp hwait) fun q d hq => ?_]
    · exact ⟨hhost, hqueue⟩
    · cases hp.symm.trans hq
      exact hsync d
  · rw [hgoesOn (noneWaiting_of_not_inProgress hno) fun p _ hp => absurd hp (hno p)]
    exact ⟨hhost, hqueue⟩

end Sys2Proof.Machine
end

section
/-! PROOFS. The flags as IRQ# and CAUSE see them, and the write frames of FLAGS, ENABLES and the counters. -/

namespace Sys2Proof.Machine

/-! ### IRQ# and CAUSE -/

/-- Every bit of FLAGS and ENABLES is a flag's (R177). -/
theorem FlagId.exists_num {n : Nat} (h : n < 13) : ∃ f : FlagId, f.num = n := by
  have hall : ∀ i : Fin 13, ∃ f ∈ FlagId.byPriority, f.num = i.val := by decide
  obtain ⟨f, _, hf⟩ := hall ⟨n, h⟩
  exact ⟨f, hf⟩

/-- The bit of a flag in the word that IRQ# and CAUSE look at. -/
theorem flags_and_enables_iff (s : State) (f : FlagId) :
    (s.mgmt.flags &&& s.mgmt.enables).getLsbD f.num = true
      ↔ s.flag f = true ∧ s.mgmt.enables.getLsbD f.num = true := by
  rw [BitVec.getLsbD_and, Bool.and_eq_true, State.flag]

theorem irqAsserted_iff (s : State) :
    s.irqAsserted = true ↔ ∃ f : FlagId, s.flag f = true ∧ s.mgmt.enables.getLsbD f.num = true := by
  simp only [← flags_and_enables_iff, State.irqAsserted, bne_iff_ne]
  constructor
  · intro hne
    by_contra hno
    refine hne (BitVec.eq_of_getLsbD_eq fun n hn => ?_)
    obtain ⟨f, rfl⟩ := FlagId.exists_num hn
    rw [BitVec.getLsbD_zero]
    exact Bool.eq_false_iff.mpr fun hf => hno ⟨f, hf⟩
  · rintro ⟨f, hf⟩ h0
    rw [h0, BitVec.getLsbD_zero] at hf
    exact Bool.false_ne_true hf

theorem cause_of_none {s : State} (h : ∀ f : FlagId, ¬(s.flag f = true ∧ s.mgmt.enables.getLsbD f.num = true)) :
    s.cause = 0x00FF#16 := by
  have hfind : FlagId.byPriority.find? (fun f => (s.mgmt.flags &&& s.mgmt.enables).getLsbD f.num) = none :=
    List.find?_eq_none.mpr fun f _ => (flags_and_enables_iff s f).not.mpr (h f)
  rw [State.cause, hfind]

/-- CAUSE where no flag before `f` in the order of priorities is both set and enabled, and `f` is (R181). -/
theorem cause_of_highest {s : State} {f : FlagId} {before after : List FlagId}
    (horder : before ++ f :: after = FlagId.byPriority)
    (hf : s.flag f = true ∧ s.mgmt.enables.getLsbD f.num = true)
    (hbefore : ∀ g ∈ before, ¬(s.flag g = true ∧ s.mgmt.enables.getLsbD g.num = true)) :
    s.cause = BitVec.ofNat 16 f.num := by
  have hfind : FlagId.byPriority.find? (fun f => (s.mgmt.flags &&& s.mgmt.enables).getLsbD f.num) = some f :=
    List.find?_eq_some_iff_append.mpr ⟨(flags_and_enables_iff s f).mpr hf, before, after, horder.symm, fun g hg => by
      rw [Bool.not_eq_true', Bool.eq_false_iff]
      exact (flags_and_enables_iff s g).not.mpr (hbefore g hg)⟩
  rw [State.cause, hfind]

/-- Settles O9: every bit of the two words is a flag's, and CAUSE takes the first such flag in the order of priorities. -/
theorem interruptAndCause : Obligations.InterruptAndCause := by
  intro s
  refine ⟨irqAsserted_iff s, fun hirq => cause_of_none fun f hf => ?_, fun f before after horder hset hen hbefore =>
    cause_of_highest horder ⟨hset, hen⟩ hbefore⟩
  exact Bool.eq_false_iff.mp hirq ((irqAsserted_iff s).mpr ⟨f, hf⟩)

/-! ### Writes of FLAGS, ENABLES and the counters -/

/-- A recognised frame around an effect that accepts after the events inside it, and leaves the Host Port as they left
it. -/
theorem frameWith_accepted_after {r : Reg} {effect : State → Status × State} {inside : List Event} {s t : State}
    (hs : framesSeen s) (h : effect (afterInside inside s) = (.ok, t))
    (hp : t.host.port = (afterInside inside s).host.port) :
    frameWith r effect inside s = acceptedFrame (snapshot s r) s t := by
  rw [frameWith, frameReturning_recognised hs, h]
  exact settle_of_same_port hp

/-- A change of the management port leaves every other block. -/
theorem sameBlocks_withMgmt (s : State) (m : Mgmt) : sameBlocks s { s with mgmt := m } :=
  ⟨rfl, rfl, rfl, rfl, rfl, rfl, rfl, rfl, rfl, rfl, rfl, rfl, rfl, rfl⟩

/-- Settles O8: each of the three effects inside its frame, then the two elementary updates. -/
theorem flagsEnablesAndCounters : Obligations.FlagsEnablesAndCounters := by
  constructor
  · rintro data c inside s v rfl hs
    refine ⟨?_, ?_, _, congrArg Host.Outcome.next (frameWith_accepted_after (r := .counter c) hs rfl rfl),
      sameBlocks_withMgmt _ _, Counters.get_set_same _ c 0#16, fun k hk => Counters.get_set_of_ne _ 0#16 hk, rfl⟩
    · exact congrArg Host.Outcome.next (frameWith_accepted_after (r := .flags) hs rfl rfl)
    · exact congrArg Host.Outcome.next (frameWith_accepted_after (r := .enables) hs rfl rfl)
  · intro c f s
    refine ⟨?_, fun k hk => Counters.get_set_of_ne _ _ hk, rfl, sameBlocks_withMgmt s _, setFlag_flag_same f s,
      fun g hg => setFlag_flag_of_ne s hg, rfl, sameBlocks_withMgmt s _⟩
    rw [bump_mgmt, Counters.get_set_same, toNat_saturatingSucc]

end Sys2Proof.Machine
end

section
/-! PROOFS. The registers of a part with every block at its reset value, and a request at the array port, which no register
shows. -/

namespace Sys2Proof.Machine

/-- Where the array port's registers are the same, no snapshot shows another difference of the port. -/
theorem snapshot_withPort {s : State} {p : Port} (r : Reg) (harrto : p.arrto = s.port.arrto)
    (hstarve : p.starve = s.port.starve) (harrsrc : p.arrsrc = s.port.arrsrc) :
    snapshot { s with port := p } r = snapshot s r := by
  cases r with
  | arrto => exact harrto
  | starve => exact hstarve
  | arrsrc => exact congrArg ArrSrc.code harrsrc
  | _ => rfl

theorem snapshot_requestEngine (s : State) (r : Reg) : snapshot (requestEngine s) r = snapshot s r := by
  unfold requestEngine
  split
  · next q _ =>
    obtain ⟨harrto, hstarve, harrsrc⟩ := Port.post_limits .engine q s.port
    exact snapshot_withPort r harrto hstarve harrsrc
  · rfl

section Cold

variable (st : Straps) (held : Bool) (array : List Host.Cell) (pending : List Instr)

theorem cause_cold : (State.cold st held array pending).cause = 0x00FF#16 :=
  cause_of_none fun f ⟨hf, _⟩ => Bool.false_ne_true ((BitVec.getLsbD_zero (w := 13) (i := f.num)).symm.trans hf)

/-- RECOVERING with the journal on, IDLE with it off, and every other field 0 (R113, R119). -/
theorem estatWord_cold :
    estatWord (State.cold st held array pending) = if st.jsz = 0#2 then 0x0002#16 else 0x0000#16 := by
  simp only [estatWord, State.cold, Engine.cold, List.length_nil]
  split <;> decide

theorem agecntWord_cold (d : Dom) : agecntWord (State.cold st held array pending) d = 0#16 := by
  cases d <;> rfl

theorem dstatWord_cold (d : Dom) : dstatWord (State.cold st held array pending) d = 0#16 := by
  rw [dstatWord, domains_cold, queuedCount, State.cold, List.filter_nil]
  decide

theorem windows_cold (i : Fin 16) : Classifier.cold.windows[i] = Window.cold := Vector.getElem_replicate i.isLt

/-- The upper bits of an address at 0, as CCHI[d] and JADDR show them. -/
theorem addressHigh_zero : ((0#20 : Addr).extractLsb' 16 4).setWidth 16 = 0#16 := by decide

theorem snapshot_cold (r : Reg) : snapshot (State.cold st held array pending) r = r.resetValue st := by
  have hdomain := domains_cold st held array pending
  cases r with
  | cause => exact cause_cold st held array pending
  | estat => exact estatWord_cold st held array pending
  | viewx => exact (by decide : viewxWord ⟨.none, 0#10⟩ = 0#16)
  | pwstat | agechain => exact (by decide : (0#14 ++ BitVec.ofBool false ++ BitVec.ofBool false : Word) = 0#16)
  | hact => exact (by decide : hactWord Classifier.cold = 2#16)
  | jaddr => exact addressHigh_zero
  | hset k => exact Four.get_ofFn _ k
  | counter c => cases c <;> rfl
  | dctl d => exact (congrArg dctlWord (hdomain d)).trans (by decide : dctlWord Domain.cold = 0#16)
  | ceil d => exact congrArg Domain.ceil (hdomain d)
  | cclo d => exact congrArg (fun x : Domain => x.cell.setWidth 16) (hdomain d)
  | cchi d =>
    exact (congrArg (fun x : Domain => (x.cell.extractLsb' 16 4).setWidth 16) (hdomain d)).trans addressHigh_zero
  | agerld d => exact congrArg Domain.agerld (hdomain d)
  | agecnt d => exact agecntWord_cold st held array pending d
  | dstat d => exact dstatWord_cold st held array pending d
  | lasttag d => exact congrArg Domain.lastTag (hdomain d)
  | appliedtag d => exact congrArg Domain.appliedTag (hdomain d)
  | winbase i => exact (congrArg winbaseWord (windows_cold i)).trans (by decide : winbaseWord Window.cold = 0#16)
  | winlim i => exact (congrArg winlimWord (windows_cold i)).trans (by decide : winlimWord Window.cold = 0#16)
  | _ => rfl

end Cold

/-- Settles O2: the engine's first request shows in no register. -/
theorem resetRegistersReadResetValues : Obligations.ResetRegistersReadResetValues := fun st left held s =>
  ⟨_, rfl, fun r => (snapshot_requestEngine _ r).trans (snapshot_cold st held (interrupted left s) s.pending r)⟩

end Sys2Proof.Machine
end

section
/-! PROOFS. What an event can do to the management port: it sets flags and raises counters. The enables, the statuses, VIEWX,
the record of MSO and a held MSS# are changed by frames and resets alone, so each shared operation leaves `State.records`. -/

namespace Sys2Proof.Machine

/-- The management port without its flags and counters. -/
def State.records (s : State) : Mgmt := { s.mgmt with flags := 0#13, counters := Counters.cold }

theorem viewx_of_sameRecords {s t : State} (h : t.records = s.records) : t.mgmt.viewx = s.mgmt.viewx := by
  have hviewx := congrArg Mgmt.viewx h
  exact hviewx

theorem records_ite {c : Prop} [Decidable c] {a b s : State} (ha : a.records = s.records) (hb : b.records = s.records) :
    (if c then a else b).records = s.records := by
  split
  · exact ha
  · exact hb

section Records

variable (s : State)

/-! ### The access in progress -/

theorem records_setHold (k : Hold) : (setHold k s).records = s.records := by
  unfold setHold
  split <;> rfl

theorem records_completeQuiet : (completeQuiet s).records = s.records := by
  unfold completeQuiet
  split <;> rfl

theorem records_completeRead (w : Word) : (completeRead w s).records = s.records := by
  unfold completeRead
  split <;> rfl

theorem records_dropWrite (c : DropCause) : (dropWrite c s).records = s.records := records_completeQuiet _

theorem records_dropParity : (dropParity s).records = s.records := records_dropWrite _ .parity

theorem records_completeSync : (completeSync s).records = s.records := by
  unfold completeSync
  split
  · exact records_completeQuiet s
  · rfl

theorem records_holdForRead (k : Hold) (a : Addr) : (holdForRead k a s).records = s.records := records_setHold s k

/-! ### The group protocol -/

theorem records_loadAge (d : Dom) : (loadAge d s).records = s.records := records_ite rfl rfl

theorem records_reloadIfIdle (d : Dom) : (reloadIfIdle d s).records = s.records := records_ite (records_loadAge s d) rfl

theorem records_flowAfterTake : (flowAfterTake s).records = s.records := records_ite rfl rfl

theorem records_flowAfterRelease (n : Nat) : (flowAfterRelease n s).records = s.records := records_ite rfl rfl

theorem records_breakCore (d : Dom) (c : BreakCause) : (breakCore d c s).records = s.records := by
  unfold breakCore
  split <;> rfl

theorem records_breakDomain (d : Dom) (c : BreakCause) : (breakDomain d c s).records = s.records :=
  (records_flowAfterRelease _ _).trans (records_breakCore s d c)

theorem records_breakIfOpen (d : Dom) (c : BreakCause) : (breakIfOpen c s d).records = s.records :=
  records_ite (records_breakCore s d c) rfl

theorem records_breakAll (c : BreakCause) : (breakAll c s).records = s.records := by
  simp only [breakAll, Ix4.all, List.foldl_cons, List.foldl_nil, records_breakIfOpen]

theorem records_commitToBroken (d : Dom) : (commitToBroken d s).records = s.records := records_dropWrite _ .broken

theorem records_requestEngine : (requestEngine s).records = s.records := by
  unfold requestEngine
  split <;> rfl

theorem records_beginHead : (beginHead s).records = s.records := records_requestEngine _

theorem records_tryBegin : (tryBegin s).records = s.records := records_ite (records_beginHead s) rfl

theorem records_commitQueued (d : Dom) (tag : Word) : (commitQueued d tag s).records = s.records :=
  records_ite (records_setHold _ _) (records_completeQuiet _)

theorem records_grantCommit : (grantCommit s).records = s.records := by
  unfold grantCommit
  split
  · exact records_ite (records_commitQueued s _ _) rfl
  · rfl

theorem records_grantPending (d : Dom) : (grantPending s d).records = s.records := records_ite rfl rfl

theorem records_grantSlots : (grantSlots s).records = s.records := by
  simp only [grantSlots, Ix4.all, List.foldl_cons, List.foldl_nil, records_grantPending, records_grantCommit]

/-! ### Staged writes and examinations -/

theorem records_takeCoalesce (d : Dom) (a : Addr) (l : Lanes) (w : Word) : (takeCoalesce d a l w s).records = s.records :=
  (records_completeQuiet _).trans (records_reloadIfIdle _ d)

theorem records_takeNew (d : Dom) (a : Addr) (l : Lanes) (w : Word) : (takeNew d a l w s).records = s.records :=
  (records_completeQuiet _).trans ((records_flowAfterTake _).trans
    (records_ite (records_reloadIfIdle _ d) (records_loadAge _ d)))

theorem records_placeNow (d : Dom) (a : Addr) (l : Lanes) (w : Word) : (placeNow d a l w s).records = s.records :=
  records_ite (records_takeCoalesce s d a l w)
    (records_ite ((records_dropWrite _ _).trans (records_breakDomain s d _)) (records_takeNew s d a l w))

theorem records_examineWrite (x : Bool) (d : Dom) (a : Addr) (l : Lanes) (w : Word) :
    (examineWrite x d a l w s).records = s.records :=
  records_ite (records_dropWrite s _) (records_ite (records_dropWrite s _) (records_ite (records_placeNow s d a l w)
    (records_ite ((records_dropWrite _ _).trans (records_breakDomain s d .hold))
      (records_ite rfl ((records_dropWrite _ _).trans (records_breakDomain s d _))))))

theorem records_examineCommit (x : Bool) (d : Dom) (tag : Word) : (examineCommit x d tag s).records = s.records :=
  records_ite ((records_tryBegin _).trans (records_commitQueued s d tag))
    (records_ite ((records_commitToBroken _ d).trans (records_breakDomain s d .hold))
      (records_ite rfl ((records_commitToBroken _ d).trans (records_breakDomain s d _))))

theorem records_examine (x : Bool) : (examine x s).records = s.records := by
  unfold examine
  split
  · split
    · exact records_examineWrite s x _ _ _ _
    · exact records_examineCommit s x _ _
    · rfl
  · rfl

theorem records_beginAndExamine : (beginAndExamine s).records = s.records :=
  records_ite ((records_examine _ false).trans (records_beginHead s)) rfl

/-! ### Accesses as they are presented -/

theorem records_stagedRead (d : Dom) (a : Addr) : (stagedRead d a s).records = s.records :=
  records_ite (records_completeRead _ _) (records_holdForRead s _ a)

theorem records_classifiedRead (c : Class) (a : Addr) : (classifiedRead c a s).records = s.records := by
  cases c with
  | outside | reserved => exact records_completeRead s _
  | stage d => exact records_ite (records_stagedRead s d a) (records_holdForRead s _ a)
  | commitCell | pass | deny => exact records_holdForRead s _ a

theorem records_stagedWrite (d : Dom) (a : Addr) (l : Lanes) (w : Word) (bad : Bool) :
    (stagedWrite d a l w bad s).records = s.records :=
  records_ite ((records_dropParity _).trans (records_breakDomain s d _)) (records_ite (records_dropWrite s _)
    (records_ite (records_placeNow s d a l w) ((records_examine _ false).trans (records_setHold s _))))

theorem records_abortGroup (d : Dom) : (abortGroup d s).records = s.records :=
  (records_completeQuiet _).trans (records_flowAfterRelease _ _)

theorem records_holdCommit (d : Dom) (tag : Word) : (holdCommit d tag s).records = s.records :=
  (records_examine _ false).trans (records_setHold _ _)

theorem records_commitGroup (d : Dom) (tag : Word) : (commitGroup d tag s).records = s.records :=
  records_ite (records_commitToBroken s d)
    (records_ite ((records_tryBegin _).trans (records_commitQueued s d tag)) (records_holdCommit s d tag))

theorem records_commitCellWrite (d : Dom) (l : Lanes) (w : Word) (bad : Bool) :
    (commitCellWrite d l w bad s).records = s.records :=
  records_ite ((records_dropWrite _ _).trans (records_ite (records_breakDomain s d _) rfl))
    (records_ite ((records_dropParity _).trans (records_breakDomain s d _))
      (records_ite (records_abortGroup s d) (records_commitGroup s d w)))

theorem records_passWrite (a : Addr) (l : Lanes) (w : Word) (bad : Bool) : (passWrite a l w bad s).records = s.records :=
  records_ite (records_dropParity s) (records_setHold s _)

theorem records_classifiedWrite (c : Class) (a : Addr) (l : Lanes) (w : Word) (hdp : Option (BitVec 2)) :
    (classifiedWrite c a l w hdp s).records = s.records := by
  unfold classifiedWrite
  split
  · exact records_dropWrite s _
  · cases c with
    | commitCell d => exact records_commitCellWrite s d l w _
    | stage d => exact records_stagedWrite s d a l w _
    | pass => exact records_passWrite s a l w _
    | outside | reserved | deny => rfl

theorem records_presentAccess (a : Access) : (presentAccess a s).records = s.records := by
  cases a with
  | malformed => exact records_completeQuiet s
  | read addr => exact records_classifiedRead s _ addr
  | write addr l w hdp => exact records_ite (records_completeQuiet s) (records_classifiedWrite s _ addr l w hdp)

theorem records_arrive (a : Access) : (arrive a s).records = s.records := records_ite rfl (records_presentAccess _ a)

theorem records_settle (before : State) : (settle before s).records = s.records := by
  unfold settle
  dsimp only
  split
  · split
    · exact records_arrive _ _
    · rfl
  · rfl

theorem records_releaseHeld : (releaseHeld s).records = s.records := by
  unfold releaseHeld
  split
  · split
    · exact records_presentAccess _ _
    · rfl
  · rfl

/-! ### The end of an access of the host -/

theorem records_hostReadDone (w : Word) : (hostReadDone w s).records = s.records := by
  unfold hostReadDone
  split
  · split
    · exact (records_completeRead _ _).trans (records_ite rfl rfl)
    · exact records_completeRead s w
    · rfl
  · rfl

theorem records_hostAccessDone (w : Word) : (hostAccessDone w s).records = s.records := by
  unfold hostAccessDone
  split
  · exact records_completeQuiet s
  · exact records_hostReadDone s w

theorem records_hostTimedOut : (hostTimedOut s).records = s.records := by
  unfold hostTimedOut
  dsimp only
  split
  · exact records_completeQuiet _
  · exact records_completeRead _ _
  · exact records_completeRead _ _
  · rfl

/-! ### The engine -/

theorem records_goOn (e : EngineState) : (goOn e s).records = s.records := records_requestEngine _

theorem records_enter (e : EngineState) : (enter e s).records = s.records :=
  (records_examine _ false).trans (records_goOn s e)

theorem records_retire : (retire s).records = s.records := by
  unfold retire
  split
  · rfl
  · refine (records_examine _ false).trans ((records_tryBegin _).trans ((records_grantSlots _).trans ?_))
    exact records_ite ((records_completeSync _).trans (records_flowAfterRelease _ _)) (records_flowAfterRelease _ _)

theorem records_copyingDone (i w : Nat) : (copyingDone i w s).records = s.records :=
  records_ite (records_goOn s _) (records_ite (records_goOn s _) (records_enter s _))

theorem records_markingDone (k : Nat) : (markingDone k s).records = s.records :=
  records_ite (records_enter s _) (records_ite (records_goOn s _) (records_goOn s _))

theorem records_homingDone (i : Nat) : (homingDone i s).records = s.records :=
  records_ite (records_goOn s _) (records_ite (records_enter s _) (records_retire s))

theorem records_failRecovery (c : BlockCause) : (failRecovery c s).records = s.records := records_releaseHeld _

theorem records_replayOn (h : List Word) (rest : List JournalRecord) : (replayOn h rest s).records = s.records := by
  unfold replayOn
  split <;> exact records_goOn s _

theorem records_headerRead (h : List Word) : (headerRead h s).records = s.records :=
  records_ite (records_goOn s _) (records_ite (records_goOn s _) (records_failRecovery s _))

theorem records_recordRead (h ws : List Word) : (recordRead h ws s).records = s.records :=
  records_ite (records_goOn s _) (records_ite (records_replayOn s h _) (records_failRecovery s _))

theorem records_recoveryDone (r : Recovery) (w : Word) : (recoveryDone r w s).records = s.records := by
  cases r with
  | marker => exact records_ite (records_headerRead s _) (records_releaseHeld _)
  | header read => exact records_headerRead s _
  | records h read => exact records_recordRead s h _
  | replay h rest => exact records_replayOn s h _
  | finish h => exact records_releaseHeld _

theorem records_engineAccessDone (w : Word) : (engineAccessDone w s).records = s.records := by
  unfold engineAccessDone
  split
  · exact records_recoveryDone s _ w
  · exact records_ite rfl rfl
  · rfl
  · exact records_copyingDone s _ _
  · exact records_markingDone s _
  · exact records_homingDone s _
  · exact records_retire s
  · rfl

theorem records_fault (p : Phase) (i : Nat) : (fault p i s).records = s.records := records_examine _ false

theorem records_engineTimedOut : (engineTimedOut s).records = s.records := by
  unfold engineTimedOut
  dsimp only
  split
  · exact records_failRecovery _ _
  · exact records_ite rfl rfl
  · rfl
  · exact records_fault _ _ _
  · exact records_fault _ _ _
  · exact records_fault _ _ _
  · exact records_fault _ _ _
  · rfl

/-! ### The array port -/

theorem records_accessComplete (ad : Option Word) : (accessComplete ad s).records = s.records := by
  unfold accessComplete
  split
  · rfl
  · dsimp only
    split
    · exact records_hostAccessDone _ _
    · exact records_engineAccessDone _ _
    · rfl

theorem records_accessTimeout (left : Option Word) : (accessTimeout left s).records = s.records := by
  unfold accessTimeout
  split
  · rfl
  · refine records_ite ?_ rfl
    dsimp only
    split
    · exact records_hostTimedOut _
    · exact records_engineTimedOut _
    · rfl

/-! ### Ticks and power -/

theorem records_holdExpiry : (holdExpiry s).records = s.records := by
  unfold holdExpiry
  split
  · refine records_ite ?_ rfl
    split
    · exact records_completeQuiet _
    · exact records_examine s true
  · rfl

theorem records_ageExpiry (d : Dom) : (ageExpiry d s).records = s.records := by
  refine records_ite ?_ rfl
  split
  · rfl
  · exact records_ite (records_beginAndExamine _) rfl
  · exact (records_examine _ false).trans (records_breakDomain _ d _)

theorem records_takeExpiry (e : Expiry) : (takeExpiry s e).records = s.records := by
  refine (records_settle _ s).trans ?_
  cases e with
  | hold => exact records_holdExpiry s
  | array left => exact records_accessTimeout s left
  | age d => exact records_ageExpiry s d

theorem records_foldl_takeExpiry (early : List Expiry) : (early.foldl takeExpiry s).records = s.records := by
  induction early generalizing s with
  | nil => rfl
  | cons e es ih => exact (ih _).trans (records_takeExpiry s e)

theorem records_tickHold : (tickHold s).records = s.records := by
  unfold tickHold
  split
  · exact records_ite rfl rfl
  · rfl

theorem records_tickArray : (tickArray s).records = s.records := by
  unfold tickArray
  split <;> rfl

theorem records_tickCounts : (tickCounts s).records = s.records := (records_tickArray _).trans (records_tickHold s)

theorem records_endHeldByPower : (endHeldByPower s).records = s.records := by
  unfold endHeldByPower
  split
  · exact records_dropWrite s _
  · exact records_dropWrite s _
  · exact records_completeQuiet _
  · rfl

theorem records_powerEntry : (powerEntry s).records = s.records :=
  (records_endHeldByPower _).trans ((records_flowAfterRelease _ _).trans (records_breakAll _ _))

theorem records_samplePwarn (low : Bool) : (samplePwarn low s).records = s.records :=
  records_ite (records_ite (records_beginAndExamine _) rfl) (records_ite (records_powerEntry _) rfl)

theorem records_tickStep (low : Bool) (early : List Expiry) : (tickStep low early s).records = s.records :=
  (records_settle _ _).trans ((records_samplePwarn _ low).trans
    ((records_foldl_takeExpiry _ early).trans (records_tickCounts s)))

/-! ### Events -/

theorem records_seeArrival (bus : HostBus) : (seeArrival bus s).records = s.records := by
  unfold seeArrival
  split
  · exact records_arrive s _
  · exact records_ite rfl rfl
  · rfl

theorem records_seeReturnIdle : (seeReturnIdle s).records = s.records := by
  unfold seeReturnIdle
  split <;> rfl

theorem records_seeStrobesEnd : (seeStrobesEnd s).records = s.records := by
  unfold seeStrobesEnd
  split <;> rfl

theorem records_takeEvent (e : Event) : (takeEvent s e).records = s.records := by
  cases e with
  | hostArrival bus => exact records_seeArrival s bus
  | hostReturnIdle => exact records_seeReturnIdle s
  | hostStrobesEndEarly => exact records_seeStrobesEnd s
  | holdExpiry => exact records_takeExpiry s .hold
  | arrayComplete ad => exact (records_settle _ s).trans (records_accessComplete s ad)
  | arrayTimeout left => exact records_takeExpiry s (.array left)
  | tick low early => exact records_tickStep s low early
  | ageExpiry d => exact records_takeExpiry s (.age d)

/-- The events inside a frame leave the management port but for its flags and counters. -/
theorem records_afterInside (inside : List Event) : (afterInside inside s).records = s.records := by
  induction inside generalizing s with
  | nil => rfl
  | cons e es ih => exact (ih _).trans (records_takeEvent s e)

end Records

end Sys2Proof.Machine
end

section
/-! PROOFS. Read frames and frames that are cut, and what MSO shows after each clock of a frame. -/

namespace Sys2Proof.Machine

/-! ### The register of an index -/

/-- The index map finds each register at its index (R185). -/
theorem regAt_index (r : Reg) : regAt (BitVec.ofNat 7 r.index) = some r := by
  cases r with
  | hset k => cases k <;> rfl
  | counter c => cases c <;> rfl
  | dctl d | ceil d | cclo d | cchi d | agerld d | agecnt d | dstat d | lasttag d | appliedtag d => cases d <;> rfl
  | winbase i =>
    have hall : ∀ i : Fin 16, regAt (BitVec.ofNat 7 (Reg.winbase i).index) = some (.winbase i) := by decide
    exact hall i
  | winlim i =>
    have hall : ∀ i : Fin 16, regAt (BitVec.ofNat 7 (Reg.winlim i).index) = some (.winlim i) := by decide
    exact hall i
  | _ => rfl

theorem indexWord_of_some {index : BitVec 7} {r : Reg} (h : regAt index = some r) (s : State) :
    indexWord index s = snapshot s r := by
  rw [indexWord, h]

theorem indexWord_of_none {index : BitVec 7} (h : regAt index = none) (s : State) : indexWord index s = 0#16 := by
  rw [indexWord, h]

/-- A word that is the snapshot of the register at an index, and 0 where there is none, is the frame's word. -/
theorem eq_indexWord {index : BitVec 7} {s : State} {w : Word} (hsome : ∀ r, regAt index = some r → w = snapshot s r)
    (hnone : regAt index = none → w = 0#16) : w = indexWord index s := by
  cases h : regAt index with
  | some r => rw [hsome r h, indexWord_of_some h]
  | none => rw [hnone h, indexWord_of_none h]

/-- ESTAT and DSTAT[d] alone are wide views (R175). -/
theorem wideView_of_narrow {r : Reg} (s : State) (hestat : r ≠ .estat) (hdstat : ∀ d, r ≠ .dstat d) :
    wideView s r = none := by
  cases r with
  | estat => exact absurd rfl hestat
  | dstat d => exact absurd rfl (hdstat d)
  | _ => rfl

/-! ### Read frames -/

theorem mssHeld_iff (s : State) : s.mgmt.mssHeld = true ↔ ¬framesSeen s := Iff.of_eq (Bool.not_eq_false _).symm

section Reads

variable {s : State} {index : BitVec 7} (inside : List Event)

/-- A read frame under an MSS# held since a reset is no frame: its events alone happen (R184). -/
theorem indexReadFrame_unrecognised (hs : ¬framesSeen s) :
    indexReadFrame index inside s = unrecognisedFrame (afterInside inside s) :=
  if_pos ((mssHeld_iff s).mpr hs)

theorem indexReadFrame_recognised (hs : framesSeen s) : indexReadFrame index inside s
    = actRead index (carried s (indexWord index s)) (indexView index s) (afterInside inside s) :=
  if_neg fun h => (mssHeld_iff s).mp h hs

theorem indexReadFrame_noreg (hs : framesSeen s) (h : regAt index = none) :
    indexReadFrame index inside s = { afterInside inside s with mgmt := { (afterInside inside s).mgmt with
      lastStatus := .noreg, mso := carried s 0#16 } } := by
  rw [indexReadFrame_recognised inside hs, indexWord_of_none h, actRead, readStatus, indexView, h]
  rfl

theorem indexReadFrame_register (hs : framesSeen s) (r : Reg) :
    indexReadFrame (BitVec.ofNat 7 r.index) inside s = { afterInside inside s with
      mgmt := { (afterInside inside s).mgmt with
        lastStatus := .ok, viewx := (wideView s r).getD s.mgmt.viewx, mso := carried s (snapshot s r) } } := by
  rw [indexReadFrame_recognised inside hs, indexWord_of_some (regAt_index r), actRead, readStatus, indexView,
    regAt_index r, viewx_of_sameRecords (records_afterInside s inside)]
  rfl

end Reads

/-! ### Frames that are cut -/

theorem data_cutShift_of_lt (frame : BitVec 24) {n : Nat} (h : n < 8) (s : State) : (cutShift frame n s).data = 0#16 := by
  rw [cutShift, if_pos h]
  rfl

theorem data_cutShift_of_le (frame : BitVec 24) {n : Nat} (h : 8 ≤ n) (s : State) :
    (cutShift frame n s).data = indexWord (frame.extractLsb' 16 7) s := by
  rw [cutShift, if_neg (Nat.not_lt.mpr h)]
  rfl

theorem out_cutShift (frame : BitVec 24) (n : Nat) (s : State) :
    (cutShift frame n s).out = ⟨s.mgmt.lastStatus.code, (cutShift frame n s).data, n⟩ := by
  unfold cutShift
  split <;> rfl

theorem exec_incompleteFrame_recognised (frame : BitVec 24) (clocks : Fin 24) {s : State} (hs : framesSeen s) :
    exec (.incompleteFrame frame clocks) s = .next { s with mgmt := { s.mgmt with
      mso := ⟨s.mgmt.lastStatus.code, (cutShift frame clocks s).data, clocks⟩ } } := by
  rw [← out_cutShift]
  exact congrArg Host.Outcome.next ((state_cutFrame frame clocks.isLt s).trans
    (if_neg fun h => (mssHeld_iff s).mp h hs))

theorem exec_incompleteFrame_unrecognised (frame : BitVec 24) (clocks : Fin 24) {s : State} (hs : ¬framesSeen s) :
    exec (.incompleteFrame frame clocks) s = .next (unrecognisedFrame s) :=
  congrArg Host.Outcome.next ((state_cutFrame frame clocks.isLt s).trans (if_pos ((mssHeld_iff s).mpr hs)))

/-! ### MSO clock by clock -/

section Levels

variable (frame : BitVec 24) {s : State}

/-- After so many clocks of a frame MSO shows the bit of that number (R169). -/
theorem mso_clocked (f : Shift) (n : Nat) :
    Line.mso ⟨s, .selected (f.clocked frame n)⟩ = some (Mso.level ⟨f.status, f.data, n⟩ n) := rfl

/-- In byte 0 MSO shows the last status of before (R169, R173). -/
theorem mso_byte0 (hs : framesSeen s) {n : Nat} (hn : n < 8) :
    (Line.clocks frame 0 n (Line.ofState s).assertMss).mso = some (s.mgmt.lastStatus.code.getMsbD n) := by
  rw [assertMss_of_framesSeen frame hs, clocks_shift frame s _ 0 n (.inl (by omega)), Nat.zero_add, mso_clocked,
    level_status _ hn]
  rfl

/-- The wires after byte 0 and the events that follow it. -/
theorem clocks_byte0_events (hs : framesSeen s) (inside : List Event) :
    inside.foldl Line.event (Line.clocks frame 0 8 (Line.ofState s).assertMss)
      = ⟨afterInside inside s, .selected ((Shift.snapped frame s).clocked frame 8)⟩ := by
  rw [clocks_byte0 frame hs, foldl_event]

/-- In bytes 1 and 2 MSO shows the word that the shift holds (R169, R174). -/
theorem mso_bytes12 (f : Shift) {n : Nat} (hn : n < 16) :
    (Line.clocks frame 8 n ⟨s, .selected (f.clocked frame 8)⟩).mso = some (f.data.getMsbD n) := by
  rw [clocks_shift frame s f 8 n (.inr ⟨Nat.le_refl 8, by omega⟩), mso_clocked, level_data]

/-- The clocks after byte 2 move MSO on, and nothing else (R169). -/
theorem clocks_after_bytes12 (f : Shift) (n : Nat) :
    Line.clocks frame 8 (16 + n) ⟨s, .selected (f.clocked frame 8)⟩
      = ⟨(f.clocked frame 24).act s, .selected { f.clocked frame 24 with falls := 24 + n }⟩ := by
  rw [clocks_append, clocks_bytes12, clocks_after frame _ _ _ n (Nat.le_refl 24)]
  rfl

theorem mso_after_bytes12 (f : Shift) (n : Nat) :
    (Line.clocks frame 8 (16 + n) ⟨s, .selected (f.clocked frame 8)⟩).mso = some false := by
  rw [clocks_after_bytes12]
  exact congrArg some (level_after _ (Nat.le_add_right 24 n))

theorem state_after_bytes12 (f : Shift) (n : Nat) :
    (Line.clocks frame 8 (16 + n) ⟨s, .selected (f.clocked frame 8)⟩).state
      = (Line.clocks frame 8 16 ⟨s, .selected (f.clocked frame 8)⟩).state := by
  rw [clocks_after_bytes12, clocks_bytes12]

/-- Under an MSS# held since a reset MSO is not driven (R184). -/
theorem mso_of_held (hs : ¬framesSeen s) (n : Nat) : (Line.clocks frame 0 n (Line.ofState s).assertMss).mso = none := by
  rw [assertMss_of_held hs, clocks_of_not_selected frame 0 n fun f hf => by cases hf]
  rfl

end Levels

theorem mso_deassertMss (l : Line) : l.deassertMss.mso = none := by
  rw [Line.mso, select_deassertMss]

/-- Settles O6: the read frames by the register at their index, the cut frames by the shift they leave, and MSO by the
shift as it stands after each clock. -/
theorem readFramesAndIncompleteFrames : Obligations.ReadFramesAndIncompleteFrames := by
  refine ⟨?_, ?_, ?_, ?_, fun s l => ⟨mso_ofState s, mso_deassertMss l⟩⟩
  · rintro r inside s t rfl hs
    refine ⟨_, congrArg Host.Outcome.next (indexReadFrame_register inside hs r), sameBlocks_withMgmt _ _, rfl, ?_, ?_, ?_⟩
    · rintro rfl
      rfl
    · rintro d rfl
      rfl
    · intro hestat hdstat
      rw [wideView_of_narrow s hestat hdstat]
      rfl
  · rintro index inside s t rfl
    exact ⟨fun hs h => congrArg Host.Outcome.next (indexReadFrame_noreg inside hs h),
      fun hs => congrArg Host.Outcome.next (indexReadFrame_unrecognised inside hs)⟩
  · intro frame clocks s
    refine ⟨exec_incompleteFrame_unrecognised frame clocks, fun hs =>
      ⟨_, exec_incompleteFrame_recognised frame clocks hs, fun h => data_cutShift_of_lt frame h s, fun r h hr => ?_,
        fun h hr => ?_⟩⟩
    · rw [data_cutShift_of_le frame h, indexWord_of_some hr]
    · rw [data_cutShift_of_le frame h, indexWord_of_none hr]
  · rintro frame inside s l m w rfl rfl hsome hnone
    refine ⟨fun hs => ?_, mso_of_held frame⟩
    have hw : w = (Shift.snapped frame s).data := eq_indexWord hsome hnone
    rw [clocks_byte0_events frame hs inside, hw]
    exact ⟨fun n => mso_byte0 frame hs, fun n => mso_bytes12 frame _,
      fun n => ⟨mso_after_bytes12 frame _ n, state_after_bytes12 frame _ n⟩⟩

end Sys2Proof.Machine
end

section
/-! PROOFS. Every step keeps the array's contents canonical; what runs in a step; the invariants at reset. -/

namespace Sys2Proof.Machine

section Canonical

variable {s t : State}

/-! ### The canonical form of the array's contents -/

theorem arrayCanonical_of_eq (h : t.array = s.array) (hs : arrayCanonical s) : arrayCanonical t := by
  unfold arrayCanonical
  rw [h]
  exact hs

/-- What the end of an access leaves is canonical: the contents of before, or a word stored in its lanes. -/
theorem wf_of_storedBy {a : ArrayAccess} {m m' : List Host.Cell} (h : storedBy a m m') (hm : Memory.wf m = true) :
    Memory.wf m' = true := by
  obtain rfl | ⟨w, _, rfl⟩ := h
  · exact hm
  · exact Memory.wf_store _ _ w hm

theorem arrayCanonical_accessEnd (h : AccessEnd s t) (hs : arrayCanonical s) : arrayCanonical t := by
  cases h with
  | other _ _ hm => exact wf_of_storedBy hm hs
  | engine _ _ hm turn _ => exact arrayCanonical_of_eq turn.frame.array (wf_of_storedBy hm hs)

theorem arrayCanonical_endsThen (h : EndsThen s t) (hs : arrayCanonical s) : arrayCanonical t := by
  obtain h | ⟨u, hu, h⟩ := h
  · exact arrayCanonical_of_eq h.array_eq hs
  · exact arrayCanonical_of_eq h.array_eq (arrayCanonical_accessEnd hu hs)

/-- A timeout among the expiries of a tick ends an access as any other does. -/
theorem arrayCanonical_tickStep (low : Bool) (early : List Expiry) (hs : arrayCanonical s) :
    arrayCanonical (tickStep low early s) :=
  arrayCanonical_of_eq (array_tickStep low early s) <|
    List.foldlRecOn early _ (motive := arrayCanonical) (arrayCanonical_of_eq (array_tickCounts s) hs)
      fun u hu e _ => arrayCanonical_endsThen (endsThen_takeExpiry e u) hu

theorem arrayCanonical_takeEvent (e : Event) (hs : arrayCanonical s) : arrayCanonical (takeEvent s e) := by
  cases e with
  | hostArrival bus => exact arrayCanonical_of_eq (Works.seeArrival bus (.refl s)).array_eq hs
  | hostReturnIdle => exact arrayCanonical_of_eq (congrArg Duty.array (duty_seeReturnIdle s)) hs
  | hostStrobesEndEarly => exact arrayCanonical_of_eq (congrArg Duty.array (duty_seeStrobesEnd s)) hs
  | arrayComplete ad =>
    exact arrayCanonical_endsThen ((endsThen_accessComplete ad s).then (Works.settle s (.refl _))) hs
  | tick low early => exact arrayCanonical_tickStep low early hs
  | holdExpiry => exact arrayCanonical_endsThen (endsThen_takeExpiry .hold s) hs
  | arrayTimeout left => exact arrayCanonical_endsThen (endsThen_takeExpiry (.array left) s) hs
  | ageExpiry d => exact arrayCanonical_endsThen (endsThen_takeExpiry (.age d) s) hs

theorem arrayCanonical_afterInside (inside : List Event) (hs : arrayCanonical s) :
    arrayCanonical (afterInside inside s) :=
  List.foldlRecOn inside _ (motive := arrayCanonical) hs fun _ hu e _ => arrayCanonical_takeEvent e hu

/-- A reset leaves the contents, or what the write that it interrupted left of them (R143). -/
theorem arrayCanonical_reset (st : Straps) (left : Option Word) (held : Bool) (hs : arrayCanonical s) :
    arrayCanonical (requestEngine (State.cold st held (interrupted left s) s.pending)) := by
  rw [requestEngine_eq]
  exact wf_interrupted left s hs

theorem arrayCanonical_course (h : Course s t) (hs : arrayCanonical s) : arrayCanonical t := by
  cases h with
  | event e => exact arrayCanonical_takeEvent e hs
  | reset st left held => exact arrayCanonical_reset st left held hs
  | write word effect inside he =>
    exact arrayCanonical_of_eq (array_frameReturning he inside s) (arrayCanonical_afterInside inside hs)
  | read index inside =>
    exact arrayCanonical_of_eq (array_indexReadFrame index inside s) (arrayCanonical_afterInside inside hs)
  | cut h =>
    obtain ⟨_, _, _, _, _, _, _, _, _, _, _, _, harray, _⟩ := h
    exact arrayCanonical_of_eq harray hs

end Canonical

/-! ### What a step runs -/

theorem step_of_command {c : Instr} {rest : List Instr} {s : State} (h : s.pending = c :: rest) :
    step s = exec c { s with pending := rest } := by
  rw [step, h]

theorem step_of_empty {s : State} (h : s.pending = []) : step s = .next s := by
  rw [step, h]

/-- Settles O1: by the two forms of the queue. -/
theorem stepTakesFrontCommand : Obligations.StepTakesFrontCommand :=
  ⟨fun _ _ _ => step_of_command, fun _ => step_of_empty⟩

/-- Settles O51: the contents change at the end of an access and at a reset alone, and there by a stored word. -/
theorem stepsKeepArrayCanonical : Obligations.StepsKeepArrayCanonical := by
  intro s t hs h
  cases hp : s.pending with
  | nil =>
    rw [step_of_empty hp] at h
    cases h
    exact hs
  | cons c rest =>
    rw [step_of_command hp] at h
    exact arrayCanonical_course (s := { s with pending := rest }) (course_of_exec h) hs

/-! ### The invariants at reset -/

/-- With the journal off the engine makes no first request, so the machine at reset is what a reset of such a board
leaves (R119, R132). -/
theorem requestEngine_reset : requestEngine State.reset = State.reset := rfl

/-- What every reset meets, the machine at reset meets. -/
theorem KeptByCourses.stateReset {P : State → Prop} (k : KeptByCourses P) : P State.reset := by
  rw [← requestEngine_reset]
  exact k.reset _ false [] []

/-- Settles O50: each invariant by the reset case of the proof that every step keeps it. -/
theorem resetMeetsTheInvariants : Obligations.ResetMeetsTheInvariants := by
  have hqueue : queueBounded State.reset := queueBounded_keptByCourses.stateReset
  have hhost : HostKept State.reset := requestEngine_reset ▸ hostKept_cold _ false [] []
  have hcells : CellsKept State.reset := cellsKept_keptByCourses.stateReset
  exact ⟨Memory.wf_reset, hqueue, (limitsSound_iff _).mpr limitsKept_keptByCourses.stateReset,
    (storeSound_iff _).mpr SoundStore.keptByCourses.stateReset,
    (domainsSound_iff _).mpr SoundGroups.keptByCourses.stateReset,
    (recoverySound_iff _).mpr SoundRecovery.keptByCourses.stateReset,
    (engineSound_iff _).mpr soundEngine_keptByCourses.stateReset,
    (addressesSound_iff _).mpr addressesBelow_keptByCourses.stateReset,
    journalKept_keptByCourses.stateReset.guard.homingHasValidJournal,
    (hostSound_iff hqueue).mpr ⟨hhost.host, hhost.again⟩, hcells.1.distinct⟩

end Sys2Proof.Machine
end

section
/-! PROOFS. What MSO has carried is a record that no host access looks at: each shared operation of an arrival commutes with
`carrying`. A frame's return to IDLE can bring an arrival (R65), so two frames that differ in what MSO has carried alone
leave states that differ in it alone. -/

namespace Sys2Proof.Machine

/-- The state with another record of what MSO has carried. -/
def carrying (out : Mso) (s : State) : State := { s with mgmt := { s.mgmt with mso := out } }

section Carrying

variable (m : Mso) (s : State)

theorem carrying_domains : (carrying m s).domains = s.domains := rfl
theorem carrying_host : (carrying m s).host = s.host := rfl
theorem engineRequest_carrying : engineRequest (carrying m s) = engineRequest s := rfl
theorem classDropCause_carrying (c : Class) : classDropCause (carrying m s) c = classDropCause s c := rfl

variable {m} in
theorem ite_carrying {c : Prop} [Decidable c] {a b a' b' : State} (ha : a' = carrying m a) (hb : b' = carrying m b) :
    (if c then a' else b') = carrying m (if c then a else b) := by
  split
  · exact ha
  · exact hb

/-! ### The access in progress -/

theorem setHold_carrying (k : Hold) : setHold k (carrying m s) = carrying m (setHold k s) := by
  unfold setHold
  rw [carrying_host]
  split <;> rfl

theorem completeQuiet_carrying : completeQuiet (carrying m s) = carrying m (completeQuiet s) := by
  unfold completeQuiet
  rw [carrying_host]
  split <;> rfl

theorem completeRead_carrying (w : Word) : completeRead w (carrying m s) = carrying m (completeRead w s) := by
  unfold completeRead
  rw [carrying_host]
  split <;> rfl

theorem dropWrite_carrying (c : DropCause) : dropWrite c (carrying m s) = carrying m (dropWrite c s) :=
  completeQuiet_carrying m (setFlag .dropped (bump .writesDropped { s with host := { s.host with dropcause := c } }))

theorem dropParity_carrying : dropParity (carrying m s) = carrying m (dropParity s) :=
  dropWrite_carrying m (setFlag .parity s) .parity

theorem holdForRead_carrying (k : Hold) (a : Addr) : holdForRead k a (carrying m s) = carrying m (holdForRead k a s) :=
  congrArg (postRequest .host (readRequest a)) (setHold_carrying m s k)

/-! ### The group protocol -/

theorem loadAge_carrying (d : Dom) : loadAge d (carrying m s) = carrying m (loadAge d s) := ite_carrying rfl rfl

theorem reloadIfIdle_carrying (d : Dom) : reloadIfIdle d (carrying m s) = carrying m (reloadIfIdle d s) :=
  ite_carrying (loadAge_carrying m s d) rfl

theorem flowAfterTake_carrying : flowAfterTake (carrying m s) = carrying m (flowAfterTake s) := ite_carrying rfl rfl

theorem flowAfterRelease_carrying (n : Nat) : flowAfterRelease n (carrying m s) = carrying m (flowAfterRelease n s) :=
  ite_carrying rfl rfl

theorem breakCore_carrying (d : Dom) (c : BreakCause) :
    breakCore d c (carrying m s) = carrying m (breakCore d c s) := by
  unfold breakCore
  rw [carrying_domains]
  split <;> rfl

theorem breakDomain_carrying (d : Dom) (c : BreakCause) :
    breakDomain d c (carrying m s) = carrying m (breakDomain d c s) :=
  (congrArg (flowAfterRelease (freeCount s)) (breakCore_carrying m s d c)).trans (flowAfterRelease_carrying m _ _)

theorem commitToBroken_carrying (d : Dom) : commitToBroken d (carrying m s) = carrying m (commitToBroken d s) :=
  dropWrite_carrying m (modDomain d Domain.acknowledge s) .broken

theorem requestEngine_carrying : requestEngine (carrying m s) = carrying m (requestEngine s) := by
  unfold requestEngine
  rw [engineRequest_carrying]
  split <;> rfl

theorem tryBegin_carrying : tryBegin (carrying m s) = carrying m (tryBegin s) :=
  ite_carrying (requestEngine_carrying m (setEngine _ s)) rfl

theorem commitQueued_carrying (d : Dom) (tag : Word) :
    commitQueued d tag (carrying m s) = carrying m (commitQueued d tag s) :=
  ite_carrying (setHold_carrying m (queueGroup d tag true s) _) (completeQuiet_carrying m (queueGroup d tag false s))

/-! ### Staged writes and examinations -/

theorem takeCoalesce_carrying (d : Dom) (a : Addr) (l : Lanes) (w : Word) :
    takeCoalesce d a l w (carrying m s) = carrying m (takeCoalesce d a l w s) :=
  (congrArg completeQuiet (reloadIfIdle_carrying m (bump .coalesced
    (modDomain d (fun x => { x with group := coalesceInto x.group a l w }) s)) d)).trans (completeQuiet_carrying m _)

theorem takeNew_carrying (d : Dom) (a : Addr) (l : Lanes) (w : Word) :
    takeNew d a l w (carrying m s) = carrying m (takeNew d a l w s) := by
  have hload := fun u => ite_carrying (c := (s.domains.get d).state = .opened) (reloadIfIdle_carrying m u d)
    (loadAge_carrying m u d)
  exact (congrArg (fun u => completeQuiet (flowAfterTake u)) (hload (bump .writesStaged
    (modDomain d (fun x => { x with state := .opened, group := x.group ++ [newEntry a l w] }) s)))).trans
    ((congrArg completeQuiet (flowAfterTake_carrying m _)).trans (completeQuiet_carrying m _))

/-- A break, and the drop of the write that made it. -/
theorem dropWrite_breakDomain_carrying (d : Dom) (b : BreakCause) (c : DropCause) :
    dropWrite c (breakDomain d b (carrying m s)) = carrying m (dropWrite c (breakDomain d b s)) :=
  (congrArg (dropWrite c) (breakDomain_carrying m s d b)).trans (dropWrite_carrying m _ c)

theorem placeNow_carrying (d : Dom) (a : Addr) (l : Lanes) (w : Word) :
    placeNow d a l w (carrying m s) = carrying m (placeNow d a l w s) :=
  ite_carrying (takeCoalesce_carrying m s d a l w)
    (ite_carrying (dropWrite_breakDomain_carrying m s d .ceiling .broken) (takeNew_carrying m s d a l w))

theorem examineWrite_carrying (x : Bool) (d : Dom) (a : Addr) (l : Lanes) (w : Word) :
    examineWrite x d a l w (carrying m s) = carrying m (examineWrite x d a l w s) :=
  ite_carrying (dropWrite_carrying m s _) (ite_carrying (dropWrite_carrying m s _)
    (ite_carrying (placeNow_carrying m s d a l w) (ite_carrying
      ((congrArg (fun u => dropWrite .broken (setFlag .hold u)) (breakDomain_carrying m s d .hold)).trans
        (dropWrite_carrying m (setFlag .hold (breakDomain d .hold s)) _))
      (ite_carrying rfl (dropWrite_breakDomain_carrying m s d .storeFull .broken)))))

theorem examineCommit_carrying (x : Bool) (d : Dom) (tag : Word) :
    examineCommit x d tag (carrying m s) = carrying m (examineCommit x d tag s) :=
  ite_carrying ((congrArg tryBegin (commitQueued_carrying m s d tag)).trans (tryBegin_carrying m _))
    (ite_carrying
      ((congrArg (fun u => commitToBroken d (setFlag .hold u)) (breakDomain_carrying m s d .hold)).trans
        (commitToBroken_carrying m (setFlag .hold (breakDomain d .hold s)) d))
      (ite_carrying rfl
        ((congrArg (commitToBroken d) (breakDomain_carrying m s d .queueFull)).trans (commitToBroken_carrying m _ d))))

theorem examine_carrying (x : Bool) : examine x (carrying m s) = carrying m (examine x s) := by
  unfold examine
  rw [carrying_host]
  split
  · split
    · exact examineWrite_carrying m s x _ _ _ _
    · exact examineCommit_carrying m s x _ _
    · rfl
  · rfl

/-! ### Accesses as they are presented -/

theorem stagedRead_carrying (d : Dom) (a : Addr) : stagedRead d a (carrying m s) = carrying m (stagedRead d a s) :=
  ite_carrying (completeRead_carrying m (bump .forwardHits s) _) (holdForRead_carrying m s _ a)

theorem classifiedRead_carrying (c : Class) (a : Addr) :
    classifiedRead c a (carrying m s) = carrying m (classifiedRead c a s) := by
  cases c with
  | outside | reserved => exact completeRead_carrying m s 0#16
  | stage d => exact ite_carrying (stagedRead_carrying m s d a) (holdForRead_carrying m s _ a)
  | commitCell | pass | deny => exact holdForRead_carrying m s _ a

theorem dropParity_breakDomain_carrying (d : Dom) :
    dropParity (breakDomain d .parity (carrying m s)) = carrying m (dropParity (breakDomain d .parity s)) :=
  (congrArg dropParity (breakDomain_carrying m s d .parity)).trans (dropParity_carrying m _)

theorem stagedWrite_carrying (d : Dom) (a : Addr) (l : Lanes) (w : Word) (bad : Bool) :
    stagedWrite d a l w bad (carrying m s) = carrying m (stagedWrite d a l w bad s) :=
  ite_carrying (dropParity_breakDomain_carrying m s d) (ite_carrying (dropWrite_carrying m s _)
    (ite_carrying (placeNow_carrying m s d a l w)
      ((congrArg (examine false) (setHold_carrying m s _)).trans (examine_carrying m _ false))))

theorem abortGroup_carrying (d : Dom) : abortGroup d (carrying m s) = carrying m (abortGroup d s) :=
  (congrArg completeQuiet (flowAfterRelease_carrying m (modDomain d Domain.aborted s) (freeCount s))).trans
    (completeQuiet_carrying m _)

theorem holdCommit_carrying (d : Dom) (tag : Word) : holdCommit d tag (carrying m s) = carrying m (holdCommit d tag s) :=
  (congrArg (examine false) (setHold_carrying m (modDomain d (fun x => { x with
    closing := true, autoPending := false, ageDue := false }) s) _)).trans (examine_carrying m _ false)

theorem commitGroup_carrying (d : Dom) (tag : Word) :
    commitGroup d tag (carrying m s) = carrying m (commitGroup d tag s) :=
  ite_carrying (commitToBroken_carrying m s d)
    (ite_carrying ((congrArg tryBegin (commitQueued_carrying m s d tag)).trans (tryBegin_carrying m _))
      (holdCommit_carrying m s d tag))

theorem commitCellWrite_carrying (d : Dom) (l : Lanes) (w : Word) (bad : Bool) :
    commitCellWrite d l w bad (carrying m s) = carrying m (commitCellWrite d l w bad s) :=
  ite_carrying
    ((congrArg (dropWrite .format) (ite_carrying (breakDomain_carrying m s d .format) rfl)).trans
      (dropWrite_carrying m _ _))
    (ite_carrying (dropParity_breakDomain_carrying m s d)
      (ite_carrying (abortGroup_carrying m s d) (commitGroup_carrying m s d w)))

theorem passWrite_carrying (a : Addr) (l : Lanes) (w : Word) (bad : Bool) :
    passWrite a l w bad (carrying m s) = carrying m (passWrite a l w bad s) :=
  ite_carrying (dropParity_carrying m s)
    (congrArg (postRequest .host (writeRequest a l w)) (setHold_carrying m s .passWrite))

theorem classifiedWrite_carrying (c : Class) (a : Addr) (l : Lanes) (w : Word) (hdp : Option (BitVec 2)) :
    classifiedWrite c a l w hdp (carrying m s) = carrying m (classifiedWrite c a l w hdp s) := by
  unfold classifiedWrite
  rw [classDropCause_carrying]
  split
  · exact dropWrite_carrying m s _
  · cases c with
    | commitCell d => exact commitCellWrite_carrying m s d l w _
    | stage d => exact stagedWrite_carrying m s d a l w _
    | pass => exact passWrite_carrying m s a l w _
    | outside | reserved | deny => rfl

theorem presentAccess_carrying (a : Access) : presentAccess a (carrying m s) = carrying m (presentAccess a s) := by
  cases a with
  | malformed => exact completeQuiet_carrying m s
  | read addr => exact classifiedRead_carrying m s _ addr
  | write addr l w hdp => exact ite_carrying (completeQuiet_carrying m s) (classifiedWrite_carrying m s _ addr l w hdp)

theorem arrive_carrying (a : Access) : arrive a (carrying m s) = carrying m (arrive a s) :=
  ite_carrying rfl (presentAccess_carrying m (setHost _ s) a)

/-- The return to IDLE neither looks at what MSO has carried nor changes it. -/
theorem settle_carrying (before : State) : settle before (carrying m s) = carrying m (settle before s) := by
  unfold settle
  rw [carrying_host]
  split
  · dsimp only
    rw [show (carrying m s).straps = s.straps from rfl]
    split
    · exact arrive_carrying m { s with host := { s.host with again := none } } _
    · rfl
  · rfl

end Carrying

end Sys2Proof.Machine
end

section
/-! PROOFS. The register map in both directions, the bytes of a frame, write frames by the register at their index, and
the edges of a whole frame. -/

namespace Sys2Proof

/-! ### The register map -/

theorem index_of_regAt {n : BitVec 7} {r : Reg} (h : regAt n = some r) : r.index = n.toNat := by
  have hall : ∀ i : Fin 128, ∀ r ∈ regAt (.ofFin i), r.index = i.val := by decide
  exact hall n.toFin r h

theorem Reg.index_lt (r : Reg) : r.index < 128 :=
  (index_of_regAt (Machine.regAt_index r)).trans_lt (BitVec.isLt _)

/-- The unused indices (R186). -/
theorem regAt_eq_none_iff (n : BitVec 7) : regAt n = none ↔
    (n.toNat = 0x0F ∨ n.toNat = 0x22 ∨ n.toNat = 0x23 ∨ (0x54 ≤ n.toNat ∧ n.toNat ≤ 0x5F)) := by
  have hall : ∀ i : Fin 128, regAt (.ofFin i) = none ↔
      (i.val = 0x0F ∨ i.val = 0x22 ∨ i.val = 0x23 ∨ (0x54 ≤ i.val ∧ i.val ≤ 0x5F)) := by decide
  exact hall n.toFin

/-! ### The bytes of a frame -/

/-- Two neighbouring bytes of a word or a frame. -/
theorem ofLanes_bytes {n : Nat} (x : BitVec n) :
    Word.ofLanes (x.extractLsb' 8 8) (x.extractLsb' 0 8) = x.extractLsb' 0 16 :=
  BitVec.extractLsb'_append_extractLsb'_eq_extractLsb' (start₁ := 0) (len₁ := 8) (len₂ := 8) rfl

theorem Word.ofLanes_lanes (w : Word) : Word.ofLanes w.lane1 w.lane0 = w := by
  rw [Word.lane0, Word.lane1, BitVec.setWidth_eq_extractLsb' (by decide), ofLanes_bytes, BitVec.extractLsb'_eq_self]

/-- Byte 0 with bit 7 clear and an index below it, then the bytes of a word: a write of the word to the index (R169). -/
theorem commandOfFrame_index (r : Reg) (data : Word) (inside : List Event) :
    commandOfFrame (BitVec.ofNat 8 r.index) (Word.lane1 data) (Word.lane0 data) inside
      = .registerWrite (BitVec.ofNat 7 r.index) data inside := by
  have hbit : (BitVec.ofNat 8 r.index).getLsbD 7 = false := by
    rw [BitVec.getLsbD_ofNat, Nat.testBit_lt_two_pow r.index_lt]
    rfl
  rw [commandOfFrame, hbit, Word.ofLanes_lanes, BitVec.setWidth_ofNat_of_le (by decide)]
  rfl

/-- The direction, the index and the word of a frame by their bits (R169). -/
theorem commandOfFrame_bytes (frame : BitVec 24) (inside : List Event) :
    commandOfFrame (frame.extractLsb' 16 8) (frame.extractLsb' 8 8) (frame.extractLsb' 0 8) inside
      = if frame.getLsbD 23 then .viewRead (frame.extractLsb' 16 7) inside
        else .registerWrite (frame.extractLsb' 16 7) (frame.setWidth 16) inside := by
  have hbit : (frame.extractLsb' 16 8).getLsbD 7 = frame.getLsbD 23 :=
    BitVec.getLsbD_extractLsb' 16 8 frame 7
  have hindex : (frame.extractLsb' 16 8).setWidth 7 = frame.extractLsb' 16 7 :=
    BitVec.setWidth_extractLsb'_of_le (by decide)
  have hdata : Word.ofLanes (frame.extractLsb' 8 8) (frame.extractLsb' 0 8) = frame.setWidth 16 := by
    rw [BitVec.setWidth_eq_extractLsb' (by decide), ofLanes_bytes]
  rw [commandOfFrame, hbit, hindex, hdata]

end Sys2Proof

namespace Sys2Proof.Machine

/-! ### Write frames -/

/-- Data whose enable bit is what the row forces it to are left as they are. -/
theorem dctlData_of_bit {on : Bool} {data : Word} (h : data.getLsbD 0 = on) : dctlData on data = data := by
  have hmask : ∀ i : Fin 16, (0xFFFE#16).getLsbD i = decide (i.val ≠ 0) := by decide
  refine BitVec.eq_of_getLsbD_eq fun i hi => ?_
  have hi0 : (0xFFFE#16).getLsbD i = decide (i ≠ 0) := hmask ⟨i, hi⟩
  cases on with
  | true =>
    rw [dctlData, if_pos rfl, BitVec.getLsbD_or, BitVec.getLsbD_one]
    by_cases h0 : i = 0
    · rw [h0, h]
      rfl
    · simp [h0]
  | false =>
    rw [dctlData, if_neg Bool.false_ne_true, BitVec.getLsbD_and, hi0]
    by_cases h0 : i = 0
    · rw [h0, h]
      rfl
    · simp [h0]

section Frames

variable {s : State} {inside : List Event} {word : State → Word} {effect : State → Status × State}

/-- A frame's effect counts in the state after its events alone. -/
theorem frameReturning_congr {effect' : State → Status × State}
    (h : effect (afterInside inside s) = effect' (afterInside inside s)) :
    frameReturning word effect inside s = frameReturning word effect' inside s := by
  simp only [frameReturning, actWrite, h]

/-- A recognised frame that is refused leaves its records alone, after its events (R171, R172). -/
theorem frameReturning_refused {status : Status} (hs : framesSeen s)
    (h : effect (afterInside inside s) = (status, afterInside inside s)) :
    frameReturning word effect inside s = wrote status s.mgmt.lastStatus (word s) (afterInside inside s) := by
  rw [frameReturning_recognised hs, h]
  exact settle_of_same_port rfl

theorem framesSeen_afterInside (inside : List Event) (hs : framesSeen s) : framesSeen (afterInside inside s) := by
  have hheld := congrArg Mgmt.mssHeld (records_afterInside s inside)
  exact hheld.trans hs

/-- A recognised frame with events is the same frame after them, but for the word that it has returned, which is of
before them. -/
theorem frameReturning_after_events (hs : framesSeen s) : frameReturning word effect inside s
    = carrying (carried s (word s)) (frameReturning word effect [] (afterInside inside s)) := by
  rw [frameReturning_recognised hs, frameReturning_recognised (framesSeen_afterInside inside hs), afterInside_nil,
    ← settle_carrying]
  rfl

theorem indexWriteFrame_of_some {index : BitVec 7} {r : Reg} (h : regAt index = some r) (data : Word)
    (inside : List Event) (s : State) : indexWriteFrame index data inside s = frameWith r (writeReg r data) inside s := by
  have hword : indexWord index = fun u => snapshot u r := funext (indexWord_of_some h)
  have heffect : indexEffect index data = writeReg r data := funext fun u => by rw [indexEffect, h]
  rw [indexWriteFrame, hword, heffect, frameWith]

theorem writeReg_readOnly {r : Reg} (h : r.readOnly = true) (data : Word) (t : State) :
    writeReg r data t = (.readonly, t) := by
  cases r <;> cases h <;> rfl

/-- The rows of the engine commands and that of the other codes are the write of ECMD (R106). -/
theorem exec_commandRow {data : Word} {row : Instr}
    (h : Reg.ecmd.writeRow (fun d => ((afterInside inside s).domains.get d).enabled) data inside = some row) :
    exec row s = .next (frameWith .ecmd (writeReg .ecmd data) inside s) := by
  obtain rfl := Option.some.inj h
  split_ifs <;> subst_vars <;> rfl

/-- The three rows of DCTL[d] are its write, the enable bit being that of the data (R15, R18, R38, R39). -/
theorem exec_dctlRow {d : Dom} {data : Word} {row : Instr}
    (h : (Reg.dctl d).writeRow (fun d => ((afterInside inside s).domains.get d).enabled) data inside = some row) :
    exec row s = .next (frameWith (.dctl d) (writeReg (.dctl d) data) inside s) := by
  obtain rfl := Option.some.inj h
  split_ifs with hsame hon
  · refine congrArg Host.Outcome.next (frameReturning_congr ?_)
    rw [dctlData_of_bit hsame, writeReg]
  · refine congrArg Host.Outcome.next (frameReturning_congr ?_)
    rw [dctlData_of_bit hon, writeReg]
  · refine congrArg Host.Outcome.next (frameReturning_congr ?_)
    rw [dctlData_of_bit (Bool.eq_false_iff.mpr hon), writeReg]

/-- The row that a write of a register is does the register's write. -/
theorem exec_of_writeRow {r : Reg} {data : Word} {row : Instr}
    (h : r.writeRow (fun d => ((afterInside inside s).domains.get d).enabled) data inside = some row) :
    exec row s = .next (frameWith r (writeReg r data) inside s) := by
  cases r with
  | ecmd => exact exec_commandRow h
  | dctl d => exact exec_dctlRow h
  | _ => cases h <;> rfl

end Frames

/-- Settles O5: the frame at the index answers with the state of before it, whatever the index. -/
theorem noRegisterAndReadOnlyWrites : Obligations.NoRegisterAndReadOnlyWrites := by
  rintro index data inside s t rfl
  refine ⟨fun hs => ⟨fun h => ?_, fun r h hr => ?_⟩, fun hs => ?_⟩
  · rw [← indexWord_of_none h s]
    exact congrArg Host.Outcome.next (frameReturning_refused hs (by rw [indexEffect, h]))
  · have hframe := indexWriteFrame_of_some h data inside s
    exact congrArg Host.Outcome.next (hframe.trans (frameReturning_refused hs (writeReg_readOnly hr data _)))
  · exact congrArg Host.Outcome.next (frameReturning_unrecognised hs)

/-! ### The edges of a whole frame -/

theorem exec_event_row (e : Event) (s : State) : exec e.row s = .next (takeEvent s e) := by
  cases e <;> rfl

/-- The act of a frame at the end of its byte 2: a read or a write by its bits (R169, R170). -/
theorem act_snapped (frame : BitVec 24) (s t : State) :
    ((Shift.snapped frame s).clocked frame 24).act t
      = if frame.getLsbD 23 then
          actRead (frame.extractLsb' 16 7) (carried s (indexWord (frame.extractLsb' 16 7) s))
            (indexView (frame.extractLsb' 16 7) s) t
        else actWrite (carried s (indexWord (frame.extractLsb' 16 7) s))
          (indexEffect (frame.extractLsb' 16 7) (frame.setWidth 16)) t := by
  rw [Shift.act, Shift.clocked, ushiftRight_of_all_clocks]
  by_cases hread : frame.getLsbD 23 = true
  · simp only [if_pos hread, Shift.snapped]
    rfl
  · simp only [if_neg hread]
    rfl

theorem wholeFrame_recognised (frame : BitVec 24) (inside : List Event) {s : State} (hs : framesSeen s) :
    ((Line.ofState s).wholeFrame frame inside).state
      = ((Shift.snapped frame s).clocked frame 24).act (afterInside inside s) := by
  rw [Line.wholeFrame, clocks_byte0_events frame hs, clocks_bytes12]
  rfl

theorem wholeFrame_unrecognised (frame : BitVec 24) (inside : List Event) {s : State} (hs : ¬framesSeen s) :
    ((Line.ofState s).wholeFrame frame inside).state = unrecognisedFrame (afterInside inside s) := by
  have hheld : ∀ u start n, Line.clocks frame start n ⟨u, .held⟩ = ⟨u, .held⟩ := fun u start n =>
    clocks_of_not_selected frame start n nofun
  rw [Line.wholeFrame, assertMss_of_held hs, hheld, foldl_event, hheld]
  rfl

/-- The edges of a whole frame on the wires are the command that its bytes spell. -/
theorem exec_commandOfFrame (frame : BitVec 24) (inside : List Event) (s : State) :
    exec (commandOfFrame (frame.extractLsb' 16 8) (frame.extractLsb' 8 8) (frame.extractLsb' 0 8) inside) s
      = .next ((Line.ofState s).wholeFrame frame inside).state := by
  rw [commandOfFrame_bytes]
  by_cases hs : framesSeen s
  · rw [wholeFrame_recognised frame inside hs, act_snapped]
    split
    · exact congrArg Host.Outcome.next (indexReadFrame_recognised inside hs)
    · exact congrArg Host.Outcome.next (frameReturning_recognised hs)
  · rw [wholeFrame_unrecognised frame inside hs]
    split
    · exact congrArg Host.Outcome.next (indexReadFrame_unrecognised inside hs)
    · exact congrArg Host.Outcome.next (frameReturning_unrecognised hs)

/-- Settles O4: the row of a register's write and the frame at its index are one frame, which acts after its events; the
edges of a frame act by the same bits as the command that its bytes spell. -/
theorem registerMapAndWriteFrames : Obligations.RegisterMapAndWriteFrames := by
  refine ⟨⟨regAt_index, fun _ _ => index_of_regAt, regAt_eq_none_iff⟩, ?_, ?_, ?_⟩
  · rintro r data inside s t row frame rfl hrow hframe
    have hexec := exec_of_writeRow hrow
    refine ⟨?_, fun hs => ?_, fun hs => ?_⟩
    · rw [commandOfFrame_index, hexec]
      exact congrArg Host.Outcome.next (indexWriteFrame_of_some (regAt_index r) data inside s)
    · exact ⟨_, exec_of_writeRow (inside := []) hframe,
        hexec.trans (congrArg Host.Outcome.next (frameReturning_after_events hs))⟩
    · exact hexec.trans (congrArg Host.Outcome.next (frameReturning_unrecognised hs))
  · exact fun e inside s => ⟨exec_event_row e s, afterInside_cons e inside s, afterInside_nil s⟩
  · exact fun frame inside s => ⟨exec_commandOfFrame frame inside s, select_deassertMss _⟩

end Sys2Proof.Machine
end

section
/-! PROOFS. The reserved bits of the registers, and the fields of ESTAT, DSTAT[d] and VIEWX at their places. -/

namespace Sys2Proof.Machine

/-! ### Reserved bits -/

/-- A word that zeros extend has no bit above them. -/
theorem setWidth_and_of_above {n : Nat} (x : BitVec n) {mask : Word} (h : mask.setWidth n = 0#n) :
    x.setWidth 16 &&& mask = 0#16 := by
  refine BitVec.eq_of_getLsbD_eq fun i hi => ?_
  rw [BitVec.getLsbD_and, BitVec.getLsbD_setWidth, BitVec.getLsbD_zero]
  by_cases hn : i < n
  · have hbit := congrArg (fun m : BitVec n => m.getLsbD i) h
    simp only [BitVec.getLsbD_setWidth, hn, decide_true, Bool.true_and, BitVec.getLsbD_zero] at hbit
    rw [hbit, Bool.and_false]
  · rw [BitVec.getLsbD_of_ge x i (Nat.le_of_not_lt hn), Bool.and_false, Bool.false_and]

/-- RDOM with a domain in it has no bit above the two of a domain. -/
theorem rdom_and_reserved {w : Word} (h : w.toNat ≤ 3) : w &&& 0xFFFC#16 = 0#16 := by
  have hw : (w.setWidth 2).setWidth 16 = w := BitVec.eq_of_toNat_eq (by
    rw [BitVec.toNat_setWidth, BitVec.toNat_setWidth]
    omega)
  rw [← hw]
  exact setWidth_and_of_above _ (by decide)

/-- A mask of a field that stands at 0 finds nothing. -/
theorem and_mask_of_field {x mask : Word} (start len : Nat) (hmask : mask = (BitVec.allOnes len).setWidth 16 <<< start)
    (h : x.extractLsb' start len = 0#len) : x &&& mask = 0#16 := by
  refine BitVec.eq_of_getLsbD_eq fun i hi => ?_
  rw [hmask, BitVec.getLsbD_and, BitVec.getLsbD_zero]
  by_cases hfield : start ≤ i ∧ i < start + len
  · obtain ⟨k, rfl⟩ := Nat.exists_eq_add_of_le hfield.1
    have hbit : (x.extractLsb' start len).getLsbD k = false := by rw [h, BitVec.getLsbD_zero]
    rw [BitVec.getLsbD_extractLsb', decide_eq_true (by omega), Bool.true_and] at hbit
    rw [hbit, Bool.false_and]
  · have hout : ((BitVec.allOnes len).setWidth 16 <<< start).getLsbD i = false := by
      rw [BitVec.getLsbD_shiftLeft, BitVec.getLsbD_setWidth, BitVec.getLsbD_allOnes]
      simp only [Bool.and_eq_false_iff, decide_eq_false_iff_not, Bool.not_eq_false', decide_eq_true_eq]
      omega
    rw [hout, Bool.and_false]

theorem strapsWord_reserved (st : Straps) : strapsWord st &&& 0xFFE0#16 = 0#16 :=
  and_mask_of_field 5 11 (by decide) (by simp only [strapsWord, BitVec.extractLsb'_append_eq_ite]; simp)

theorem viewxWord_reserved (v : Viewx) : viewxWord v &&& 0x1C00#16 = 0#16 :=
  and_mask_of_field 10 3 (by decide) (by simp only [viewxWord, BitVec.extractLsb'_append_eq_ite]; simp)

theorem estatWord_reserved (s : State) : estatWord s &&& 0x8000#16 = 0#16 :=
  and_mask_of_field 15 1 (by decide) (by simp only [estatWord, BitVec.extractLsb'_append_eq_ite]; simp)

theorem dstatWord_reserved (s : State) (d : Dom) : dstatWord s d &&& 0xC000#16 = 0#16 :=
  and_mask_of_field 14 2 (by decide) (by simp only [dstatWord, BitVec.extractLsb'_append_eq_ite]; simp)

/-- PWSTAT and AGECHAIN: two bits below zeros. -/
theorem twoBits_reserved (a b : Bool) : (0#14 ++ BitVec.ofBool a ++ BitVec.ofBool b : Word) &&& 0xFFFC#16 = 0#16 :=
  and_mask_of_field 2 14 (by decide) (by simp only [BitVec.extractLsb'_append_eq_ite]; simp)

/-- HACT has two reserved fields, on either side of its domain. -/
theorem hactWord_reserved (c : Classifier) : hactWord c &&& 0xFFCC#16 = 0#16 := by
  have hhigh : hactWord c &&& 0xFFC0#16 = 0#16 :=
    and_mask_of_field 6 10 (by decide) (by simp only [hactWord, BitVec.extractLsb'_append_eq_ite]; simp)
  have hlow : hactWord c &&& 0x000C#16 = 0#16 :=
    and_mask_of_field 2 2 (by decide) (by simp only [hactWord, BitVec.extractLsb'_append_eq_ite]; simp)
  rw [show (0xFFCC#16 : Word) = 0xFFC0#16 ||| 0x000C#16 by decide, BitVec.and_or_distrib_left, hhigh, hlow]
  decide

theorem dctlWord_reserved (x : Domain) : dctlWord x &&& 0xFFE0#16 = 0#16 :=
  and_mask_of_field 5 11 (by decide) (by simp only [dctlWord, BitVec.extractLsb'_append_eq_ite]; simp)

theorem winbaseWord_reserved (w : Window) : winbaseWord w &&& 0x4000#16 = 0#16 :=
  and_mask_of_field 14 1 (by decide) (by simp only [winbaseWord, BitVec.extractLsb'_append_eq_ite]; simp)

theorem winlimWord_reserved (w : Window) : winlimWord w &&& 0xC000#16 = 0#16 :=
  and_mask_of_field 14 2 (by decide) (by simp only [winlimWord, BitVec.extractLsb'_append_eq_ite]; simp)

/-- The reserved bits of every register read as 0 (R187). -/
theorem snapshot_reserved (s : State) (r : Reg) (h : s.engine.rdom.toNat ≤ 3) :
    snapshot s r &&& r.reservedBits = 0#16 := by
  cases r with
  | straps => exact strapsWord_reserved s.straps
  | flags | enables => exact setWidth_and_of_above _ (by decide)
  | laststat | defact | jaddr => exact setWidth_and_of_above _ (by decide)
  | cchi d => exact setWidth_and_of_above _ (by decide : (0xFFF0#16).setWidth 4 = 0#4)
  | viewx => exact viewxWord_reserved s.mgmt.viewx
  | estat => exact estatWord_reserved s
  | flow =>
    rw [snapshot]
    split <;> decide
  | dropcause =>
    rw [snapshot]
    cases s.host.dropcause <;> decide
  | arrsrc =>
    rw [snapshot]
    cases s.port.arrsrc <;> decide
  | jstat =>
    rw [snapshot]
    cases s.diag.status <;> decide
  | pwstat => exact twoBits_reserved s.power.last s.power.low
  | agechain => exact twoBits_reserved s.ticks.chain23 s.ticks.chain01
  | rdom => exact rdom_and_reserved h
  | hact => exact hactWord_reserved s.cl
  | dctl d => exact dctlWord_reserved (s.domains.get d)
  | dstat d => exact dstatWord_reserved s d
  | winbase i => exact winbaseWord_reserved s.cl.windows[i]
  | winlim i => exact winlimWord_reserved s.cl.windows[i]
  | _ => exact BitVec.and_zero

/-! ### Fields -/

/-- The fields of ESTAT by their places. -/
theorem estatWord_fields (s : State) :
    (estatWord s).extractLsb' 0 3 = s.engine.state.code
      ∧ (estatWord s).extractLsb' 3 3 = s.engine.state.phaseCode
      ∧ (estatWord s).extractLsb' 6 2 = s.engine.state.causeCode
      ∧ (estatWord s).getLsbD 8 = s.engine.hold
      ∧ (estatWord s).extractLsb' 9 6 = BitVec.ofNat 6 s.queue.length := by
  simp only [estatWord, BitVec.extractLsb'_append_eq_ite, BitVec.getLsbD_append]
  simp

/-- The fields of DSTAT[d] by their places. -/
theorem dstatWord_fields (s : State) (d : Dom) :
    (dstatWord s d).extractLsb' 0 2 = (s.domains.get d).state.code
      ∧ (dstatWord s d).getLsbD 2 = (s.domains.get d).closing
      ∧ (dstatWord s d).getLsbD 3 = (s.domains.get d).autoPending
      ∧ (dstatWord s d).extractLsb' 4 4 = (s.domains.get d).breakCause.code
      ∧ (dstatWord s d).extractLsb' 8 6 = BitVec.ofNat 6 (queuedCount s d) := by
  simp only [dstatWord, BitVec.extractLsb'_append_eq_ite, BitVec.getLsbD_append]
  simp

/-- The fields of VIEWX by their places. -/
theorem viewxWord_fields (v : Viewx) :
    (viewxWord v).extractLsb' 0 10 = v.value ∧ (viewxWord v).extractLsb' 13 3 = v.source.code := by
  simp only [viewxWord, BitVec.extractLsb'_append_eq_ite]
  simp

/-- A count of queued groups stands whole in its six bits (R91). -/
theorem toNat_groupCount {n : Nat} (h : n ≤ 32) : (BitVec.ofNat 6 n).toNat = n :=
  (BitVec.toNat_ofNat n 6).trans (Nat.mod_eq_of_lt (by omega))

/-! ### AGECNT[d] -/

theorem agecntWord_of_counting {s : State} {d : Dom} (hopen : (s.domains.get d).state = .opened)
    (hclosing : (s.domains.get d).closing = false) (hpending : (s.domains.get d).autoPending = false)
    (h01 : ¬(s.ticks.chain01 = true ∧ d = .i1)) (h23 : ¬(s.ticks.chain23 = true ∧ d = .i3)) :
    agecntWord s d = (s.domains.get d).age := by
  unfold agecntWord
  split
  · rfl
  · next hcount =>
    by_contra hage
    exact hcount ((ageCounting_iff s d).mpr ⟨hopen, hclosing, hpending, fun h0 => hage h0.symm, h01, h23⟩)

theorem agecntWord_of_not_counting {s : State} {d : Dom} (h : (s.domains.get d).state ≠ .opened
      ∨ (s.domains.get d).closing = true ∨ (s.domains.get d).autoPending = true
      ∨ (s.ticks.chain01 = true ∧ d = .i1) ∨ (s.ticks.chain23 = true ∧ d = .i3)) : agecntWord s d = 0#16 := by
  refine if_neg fun hcount => ?_
  obtain ⟨hopen, hclosing, hpending, _, h01, h23⟩ := (ageCounting_iff s d).mp hcount
  obtain h | h | h | h | h := h
  · exact h hopen
  · exact Bool.false_ne_true (hclosing.symm.trans h)
  · exact Bool.false_ne_true (hpending.symm.trans h)
  · exact h01 h
  · exact h23 h

/-- Settles O7: every layout has zeros in its reserved bits, and each field is the code that stands at its place. -/
theorem registerFieldPlaces : Obligations.RegisterFieldPlaces := by
  refine ⟨snapshot_reserved, fun s hq => ?_, ?_⟩
  · obtain ⟨hstate, hphase, hcause, hhold, hcount⟩ := estatWord_fields s
    obtain ⟨hvalue, hsource⟩ := viewxWord_fields s.mgmt.viewx
    simp only [snapshot, hstate, hphase, hcause, hhold, hcount, hvalue, hsource, toNat_groupCount hq]
    refine ⟨?_, ?_, ?_, trivial, trivial, trivial, ?_⟩
    · cases s.engine.state <;> rfl
    · cases s.engine.state with
      | faulted p i => cases p <;> rfl
      | _ => rfl
    · cases s.engine.state with
      | blocked c discarding => cases c <;> rfl
      | _ => rfl
    · cases s.mgmt.viewx.source with
      | domain d => cases d <;> rfl
      | _ => rfl
  · rintro s d x rfl hq
    obtain ⟨hstate, hclosing, hpending, hcause, hcount⟩ := dstatWord_fields s d
    have hqueued : queuedCount s d ≤ 32 := (List.length_filter_le _ _).trans hq
    simp only [snapshot, hstate, hclosing, hpending, hcause, hcount, toNat_groupCount hqueued]
    refine ⟨?_, trivial, trivial, ?_, rfl, agecntWord_of_counting, agecntWord_of_not_counting⟩
    · cases (s.domains.get d).state <;> rfl
    · cases (s.domains.get d).breakCause <;> rfl

end Sys2Proof.Machine
end
